-- ==== Sys2Proof/Word.lean ====
section
/-! DEFINITION. The word types of the TR1 CORE (00_scope.md R5, R12; 30_encoding.md R71). -/

namespace Sys2Proof

/-- A register or a buffer element: 64 bits (00_scope.md R5). -/
abbrev Word := BitVec 64

/-- A byte of a byte sequence (00_scope.md R12). -/
abbrev Byte := BitVec 8

/-- A bit of a bit sequence (00_scope.md R12); `true` is 1. -/
abbrev Bit := Bool

/-- A sample: the bit pattern of an IEEE 754 binary64 value (00_scope.md R10, R12). -/
abbrev F64 := BitVec 64

/-- A command word, CMD[15:0] (30_encoding.md R70). -/
abbrev CmdWord := BitVec 16

/-- The DIR field of a command word (30_encoding.md R71, R73). -/
inductive Dir where
  | transmit
  | receive
deriving DecidableEq, Repr

end Sys2Proof
end

