-- ==== Sys2Proof/Syntax.lean ====
section
/-! DEFINITION. The commands of the TR1-CORE command set, revision 1 (30_encoding.md R80), one constructor per mnemonic
of spec/opcode_table.json. A mnemonic with several rows (one per VARIANT, either DIR) carries the fields its rows leave
free; ILLEGAL carries the whole command word. -/

namespace Sys2Proof

/-- A command word read as what it selects (30_encoding.md R80, R81). -/
inductive Instr where
  /-- B2BITS, 40_bitvector.md R101. -/
  | b2bits
  /-- BITS2B, 40_bitvector.md R103. -/
  | bits2b
  /-- FRM_NONE_ENC, 41_framing.md R111. -/
  | frmNoneEnc
  /-- FRM_NONE_DEC, 41_framing.md R112. -/
  | frmNoneDec
  /-- FRM_LP_ENC, 41_framing.md R114. -/
  | frmLpEnc
  /-- FRM_LP_DEC, 41_framing.md R115. -/
  | frmLpDec
  /-- FRM_BYS_ENC, 41_framing.md R118. -/
  | frmBysEnc
  /-- FRM_BYS_DEC, 41_framing.md R121. -/
  | frmBysDec
  /-- FRM_BIS_ENC, 41_framing.md R125. -/
  | frmBisEnc
  /-- FRM_BIS_DEC, 41_framing.md R128. -/
  | frmBisDec
  /-- FRM_PASS, FRAMING VARIANT 4 to 15, 41_framing.md R113. -/
  | frmPass (variant : BitVec 4) (dir : Dir)
  /-- EC_NONE_ENC, 42_error_control.md R140. -/
  | ecNoneEnc
  /-- EC_NONE_DEC, 42_error_control.md R141. -/
  | ecNoneDec
  /-- PAR_ENC, 42_error_control.md R143. -/
  | parEnc
  /-- PAR_CHK, 42_error_control.md R144. -/
  | parChk
  /-- CSUM_ENC, 42_error_control.md R146. -/
  | csumEnc
  /-- CSUM_CHK, 42_error_control.md R147. -/
  | csumChk
  /-- CRC_GEN, 42_error_control.md R152. -/
  | crcGen
  /-- CRC_CHK, 42_error_control.md R153. -/
  | crcChk
  /-- HAM_ENC, 42_error_control.md R160. -/
  | hamEnc
  /-- HAM_DEC, 42_error_control.md R163. -/
  | hamDec
  /-- HAM84_ENC, 42_error_control.md R171. -/
  | ham84Enc
  /-- HAM84_DEC, 42_error_control.md R173. -/
  | ham84Dec
  /-- EC_PASS, ERRCTL VARIANT 6 to 15, 42_error_control.md R142. -/
  | ecPass (variant : BitVec 4) (dir : Dir)
  /-- NRZ_ENC, 43_line_coding.md R191. -/
  | nrzEnc
  /-- NRZ_DEC, 43_line_coding.md R192. -/
  | nrzDec
  /-- MAN_ENC, 43_line_coding.md R195. -/
  | manEnc
  /-- MAN_DEC, 43_line_coding.md R196. -/
  | manDec
  /-- AMI_ENC, 43_line_coding.md R201. -/
  | amiEnc
  /-- AMI_DEC, 43_line_coding.md R202. -/
  | amiDec
  /-- LC_UNKNOWN, LINECODE VARIANT 3 to 15, 43_line_coding.md R203. -/
  | lcUnknown (variant : BitVec 4) (dir : Dir)
  /-- ASK_MOD, 44_passband.md R214. -/
  | askMod
  /-- ASK_DEM, 44_passband.md R215. -/
  | askDem
  /-- FSK_MOD, 44_passband.md R216. -/
  | fskMod
  /-- FSK_DEM, 44_passband.md R217. -/
  | fskDem
  /-- QPSK_MOD, 44_passband.md R219. -/
  | qpskMod
  /-- QPSK_DEM, 44_passband.md R220. -/
  | qpskDem
  /-- QAM16_MOD, 44_passband.md R222. -/
  | qam16Mod
  /-- QAM16_DEM, 44_passband.md R223. -/
  | qam16Dem
  /-- PB_UNKNOWN, PASSBAND VARIANT 4 to 15, 44_passband.md R224. -/
  | pbUnknown (variant : BitVec 4) (dir : Dir)
  /-- ILLEGAL: a word that decodes to IllegalCommand, 30_encoding.md R82, 60_exceptions.md R261. -/
  | illegal (word : CmdWord)
deriving DecidableEq, Repr

end Sys2Proof
end

