-- ==== Sys2Proof/WellFormed.lean ====
section
/-! DEFINITION. Which command terms stand for a command word: the VARIANT ranges of the unassigned selectors and the
illegal words (30_encoding.md R76 to R82). -/

namespace Sys2Proof

/-- The illegal words: RSVD ≠ 0, FAMILY 5 to 15, or UTIL with VARIANT ≠ 0 (30_encoding.md R82). -/
def isIllegalWord (w : CmdWord) : Bool :=
  w.extractLsb' 1 7 != 0#7
    || decide (5 ≤ (w.extractLsb' 12 4).toNat)
    || (w.extractLsb' 12 4 == 0#4 && w.extractLsb' 8 4 != 0#4)

/-- A command term is well-formed when its fields lie in the ranges of its rows of the opcode map. -/
def Instr.wellFormed : Instr → Bool
  | .b2bits => true
  | .bits2b => true
  | .frmNoneEnc => true
  | .frmNoneDec => true
  | .frmLpEnc => true
  | .frmLpDec => true
  | .frmBysEnc => true
  | .frmBysDec => true
  | .frmBisEnc => true
  | .frmBisDec => true
  | .frmPass variant _ => decide (4 ≤ variant.toNat)
  | .ecNoneEnc => true
  | .ecNoneDec => true
  | .parEnc => true
  | .parChk => true
  | .csumEnc => true
  | .csumChk => true
  | .crcGen => true
  | .crcChk => true
  | .hamEnc => true
  | .hamDec => true
  | .ham84Enc => true
  | .ham84Dec => true
  | .ecPass variant _ => decide (6 ≤ variant.toNat)
  | .nrzEnc => true
  | .nrzDec => true
  | .manEnc => true
  | .manDec => true
  | .amiEnc => true
  | .amiDec => true
  | .lcUnknown variant _ => decide (3 ≤ variant.toNat)
  | .askMod => true
  | .askDem => true
  | .fskMod => true
  | .fskDem => true
  | .qpskMod => true
  | .qpskDem => true
  | .qam16Mod => true
  | .qam16Dem => true
  | .pbUnknown variant _ => decide (4 ≤ variant.toNat)
  | .illegal word => isIllegalWord word

end Sys2Proof
end

