-- ==== Sys2Proof/Decode.lean ====
section
/-! DEFINITION. The decoder and the encoder of command words (30_encoding.md R70 to R83). The decoder is total over the
65536 words; a word outside every stage is rejected by name, as `Instr.illegal`, which is the spec's own outcome for it
(R81 returns IllegalCommand; log entry 12). -/

namespace Sys2Proof

/-- FAMILY, bits [15:12] (30_encoding.md R71). -/
def cmdFamily (w : CmdWord) : BitVec 4 := w.extractLsb' 12 4

/-- VARIANT, bits [11:8] (30_encoding.md R71). -/
def cmdVariant (w : CmdWord) : BitVec 4 := w.extractLsb' 8 4

/-- RSVD, bits [7:1] (30_encoding.md R71). -/
def cmdRsvd (w : CmdWord) : BitVec 7 := w.extractLsb' 1 7

/-- DIR, bit [0]: 0 transmit, 1 receive (30_encoding.md R71). -/
def cmdDir (w : CmdWord) : Dir := if w.getLsbD 0 then .receive else .transmit

/-- One of a pair of commands, by direction (30_encoding.md R73). -/
def byDir (d : Dir) (transmit receive : Instr) : Instr :=
  match d with
  | .transmit => transmit
  | .receive => receive

/-- The FRAMING row of the opcode map (30_encoding.md R76). -/
def decodeFraming (variant : BitVec 4) (d : Dir) : Instr :=
  match variant.toNat with
  | 0 => byDir d .frmNoneEnc .frmNoneDec
  | 1 => byDir d .frmLpEnc .frmLpDec
  | 2 => byDir d .frmBysEnc .frmBysDec
  | 3 => byDir d .frmBisEnc .frmBisDec
  | _ => .frmPass variant d

/-- The ERRCTL row of the opcode map (30_encoding.md R77). -/
def decodeErrctl (variant : BitVec 4) (d : Dir) : Instr :=
  match variant.toNat with
  | 0 => byDir d .ecNoneEnc .ecNoneDec
  | 1 => byDir d .parEnc .parChk
  | 2 => byDir d .csumEnc .csumChk
  | 3 => byDir d .crcGen .crcChk
  | 4 => byDir d .hamEnc .hamDec
  | 5 => byDir d .ham84Enc .ham84Dec
  | _ => .ecPass variant d

/-- The LINECODE row of the opcode map (30_encoding.md R78). -/
def decodeLinecode (variant : BitVec 4) (d : Dir) : Instr :=
  match variant.toNat with
  | 0 => byDir d .nrzEnc .nrzDec
  | 1 => byDir d .manEnc .manDec
  | 2 => byDir d .amiEnc .amiDec
  | _ => .lcUnknown variant d

/-- The PASSBAND row of the opcode map (30_encoding.md R79). -/
def decodePassband (variant : BitVec 4) (d : Dir) : Instr :=
  match variant.toNat with
  | 0 => byDir d .askMod .askDem
  | 1 => byDir d .fskMod .fskDem
  | 2 => byDir d .qpskMod .qpskDem
  | 3 => byDir d .qam16Mod .qam16Dem
  | _ => .pbUnknown variant d

/-- The decoding procedure of 30_encoding.md R81. -/
def decode (w : CmdWord) : Instr :=
  if cmdRsvd w ≠ 0#7 then .illegal w
  else
    match (cmdFamily w).toNat with
    | 0 => if cmdVariant w = 0#4 then byDir (cmdDir w) .b2bits .bits2b else .illegal w
    | 1 => decodeFraming (cmdVariant w) (cmdDir w)
    | 2 => decodeErrctl (cmdVariant w) (cmdDir w)
    | 3 => decodeLinecode (cmdVariant w) (cmdDir w)
    | 4 => decodePassband (cmdVariant w) (cmdDir w)
    | _ => .illegal w

/-- The DIR bit of a direction (30_encoding.md R71). -/
def Dir.bit : Dir → BitVec 1
  | .transmit => 0#1
  | .receive => 1#1

/-- A command word from its fields with RSVD = 0 (30_encoding.md R72). -/
def cmdWordOf (family variant : BitVec 4) (d : Dir) : CmdWord := family ++ variant ++ 0#7 ++ d.bit

/-- The command word of a well-formed command, from the map of 30_encoding.md R80. -/
def encode : Instr → CmdWord
  | .b2bits => 0x0000#16
  | .bits2b => 0x0001#16
  | .frmNoneEnc => 0x1000#16
  | .frmNoneDec => 0x1001#16
  | .frmLpEnc => 0x1100#16
  | .frmLpDec => 0x1101#16
  | .frmBysEnc => 0x1200#16
  | .frmBysDec => 0x1201#16
  | .frmBisEnc => 0x1300#16
  | .frmBisDec => 0x1301#16
  | .frmPass variant dir => cmdWordOf 1#4 variant dir
  | .ecNoneEnc => 0x2000#16
  | .ecNoneDec => 0x2001#16
  | .parEnc => 0x2100#16
  | .parChk => 0x2101#16
  | .csumEnc => 0x2200#16
  | .csumChk => 0x2201#16
  | .crcGen => 0x2300#16
  | .crcChk => 0x2301#16
  | .hamEnc => 0x2400#16
  | .hamDec => 0x2401#16
  | .ham84Enc => 0x2500#16
  | .ham84Dec => 0x2501#16
  | .ecPass variant dir => cmdWordOf 2#4 variant dir
  | .nrzEnc => 0x3000#16
  | .nrzDec => 0x3001#16
  | .manEnc => 0x3100#16
  | .manDec => 0x3101#16
  | .amiEnc => 0x3200#16
  | .amiDec => 0x3201#16
  | .lcUnknown variant dir => cmdWordOf 3#4 variant dir
  | .askMod => 0x4000#16
  | .askDem => 0x4001#16
  | .fskMod => 0x4100#16
  | .fskDem => 0x4101#16
  | .qpskMod => 0x4200#16
  | .qpskDem => 0x4201#16
  | .qam16Mod => 0x4300#16
  | .qam16Dem => 0x4301#16
  | .pbUnknown variant dir => cmdWordOf 4#4 variant dir
  | .illegal word => word

/-- The instruction read from a table row's bits. A command word is 16 bits and there is no second word
(30_encoding.md R70), so more than 16 bits are refused. -/
def decodeTableWord (nbits w : Nat) : Option Instr :=
  if nbits ≤ 16 then some (decode (BitVec.ofNat 16 (w % 2 ^ nbits))) else none

end Sys2Proof
end

