-- ==== Sys2Proof/Config.lean ====
section
/-! DEFINITION. What an implementation fixes and what the spec leaves open (00_scope.md R5, R10; 60_exceptions.md R252).
Every opaque constant here is a free value: nothing in Lean can evaluate it. -/

namespace Sys2Proof

/-- The four binary64 operations whose result can be a NaN (00_scope.md R10). -/
inductive FloatOp where
  | add
  | sub
  | mul
  | div
deriving DecidableEq, Repr

/-- The free value behind IN_CAP (log entry 1). -/
opaque Config.inCapFree : Nat

/-- The free value behind OUT_CAP (log entry 1). -/
opaque Config.outCapFree : Nat

/-- Every integer from 1 to 2^32 - 1 is a value of this function, and nothing else is (00_scope.md R5). -/
def Config.legalCap (n : Nat) : Nat := n % (2 ^ 32 - 1) + 1

/-- IN_CAP, OPEN, an integer with 1 ≤ IN_CAP < 2^32 (00_scope.md R5, decision D6). -/
def Config.inCap : Nat := Config.legalCap Config.inCapFree

/-- OUT_CAP, OPEN, an integer with 1 ≤ OUT_CAP < 2^32 (00_scope.md R5, decision D6). -/
def Config.outCap : Nat := Config.legalCap Config.outCapFree

/-- Sin64, OPEN, a total function binary64 → binary64 (00_scope.md R5, decision D9, log entry 2). -/
opaque Config.sin64 : F64 → F64

/-- Cos64, OPEN, a total function binary64 → binary64 (00_scope.md R5, decision D9, log entry 2). -/
opaque Config.cos64 : F64 → F64

/-- The free value behind the bit pattern of a NaN result of an operation on two operands: IEEE 754 fixes that the
result is a NaN, not its sign or payload (log entry 3). -/
opaque Config.nanFree : FloatOp → F64 → F64 → F64

/-- How many host steps come between the n-th START and its EXEC: finite, and otherwise not fixed by any rule
(60_exceptions.md R252; 70_reset_and_hazards.md R297; log entry 4). -/
opaque Config.execDelay : Nat → Nat

end Sys2Proof
end

