-- ==== Sys2Proof/Machine/State.lean ====
section
/-! DEFINITION. The state of the TR1 CORE and its host as plain data, and the state right after reset (10_state.md;
70_reset_and_hazards.md R280). -/

namespace Sys2Proof.Machine

/-- The model faults of 60_exceptions.md R262: situations to which the block gives no meaning. Each ends the run (a
faulted state has no further step). All are safe: the spec itself stops here. -/
inductive Fault where
  /-- Raised by a host register access that is not 64 bits wide, not at a multiple of 8, or above 0xFF (R36). Safe. -/
  | badRegisterAccess
  /-- Raised by a host access to IN or OUT at an index ≥ its capacity, and by any host write to OUT (R52 to R55). Safe. -/
  | badBufferAccess
  /-- Raised by a host read of an unwritten element of IN or OUT, and by the engine reading an unwritten element of
  IN at step 4 of R253 (R53, R55, R56). Safe. -/
  | unwrittenRead
  /-- Raised by a host register write or any host buffer access while the engine is BUSY (R291). Safe. -/
  | hostAccessWhileBusy
deriving DecidableEq, Repr

/-- The reasons a step can be refused. No meaning of this model refuses. -/
inductive Refusal where
  /-- Raised only by an arm of `exec` whose command has no meaning yet (there is none now). Safe. -/
  | notModelled (mnemonic : String)
deriving DecidableEq, Repr

/-- The error kinds a command can end with (60_exceptions.md R257). -/
inductive ErrCode where
  | frameTooLarge
  | missingFrameDelimiter
  | truncatedEscape
  | parityError
  | checksumError
  | crcMismatch
  | unknownStrategy
  | invalidConfig
  | malformedInput
  | hammingUncorrectable
  | bufferOverflow
  | illegalCommand
deriving DecidableEq, Repr

/-- The written elements of IN or of OUT as (index, value) pairs, indices strictly rising; an index that is not listed
is unwritten and has no value (10_state.md R37, R38; log entry 10). -/
abbrev Memory := List (Nat × Word)

/-- The nine CFG_* registers, each with the bits it stores (10_state.md R29 to R35). -/
structure Cfg where
  /-- CFG_SPB[31:0], R29. -/
  spb : BitVec 32
  /-- CFG_CRC_WIDTH[5:0], R30. -/
  crcWidth : BitVec 6
  /-- CFG_CRC_POLY[31:0], R31. -/
  crcPoly : BitVec 32
  /-- CFG_HAM_K[7:0], R32. -/
  hamK : BitVec 8
  /-- CFG_FC[31:0], R33. -/
  fc : BitVec 32
  /-- CFG_F0[31:0], R34. -/
  f0 : BitVec 32
  /-- CFG_F1[31:0], R34. -/
  f1 : BitVec 32
  /-- CFG_A0[63:0], R35. -/
  a0 : F64
  /-- CFG_A1[63:0], R35. -/
  a1 : F64
deriving DecidableEq, Repr

/-- What START latches (10_state.md R43; 60_exceptions.md R251). -/
structure Latched where
  /-- latched.cmd = CMD[15:0]. -/
  cmd : CmdWord
  /-- latched.cfg. -/
  cfg : Cfg
  /-- latched.in_len = IN_LEN[31:0]. -/
  inLen : BitVec 32
  /-- The copy of IN[0 : IN_LEN], with its written marks (R43; log entry 7). -/
  input : Memory
deriving DecidableEq, Repr

/-- The engine's phase (10_state.md R42). While BUSY it holds the latched copy (R43); `wait` is the model's own: how
many host steps are still to come before EXEC (log entry 4). -/
inductive Engine where
  | idle
  | busy (latched : Latched) (wait : Nat)
deriving DecidableEq, Repr

/-- One operation of the host, one host access each (20_memory.md R50 to R55; 30_encoding.md R86, R87). -/
inductive HostOp where
  /-- WR: write `value` at register offset `offset`, `width` bits wide. -/
  | regWrite (offset width : Nat) (value : Word)
  /-- RD: read the register at `offset`, `width` bits wide. -/
  | regRead (offset width : Nat)
  /-- WRI: HostWrite(IN, index, value). -/
  | inWrite (index : Nat) (value : Word)
  /-- RDI: HostRead(IN, index). -/
  | inRead (index : Nat)
  /-- A host write to OUT, which R54 makes a fault. -/
  | outWrite (index : Nat) (value : Word)
  /-- RDO: HostRead(OUT, index). -/
  | outRead (index : Nat)
  /-- WAIT: RD STATUS, repeated until BUSY = 0 (R87). -/
  | wait
  /-- CHAIN: RD OUT_LEN giving n, then the copies 0 to n - 1 and the write of IN_LEN (R87). -/
  | chain
  /-- One RDO of CHAIN giving v, followed by WRI of v at the same index (R87). -/
  | copy (index : Nat)
deriving DecidableEq, Repr

/-- The state of the block (10_state.md), and below the line the model's own fields: the host's operations still to
come, what its reads returned, and the index of the free latency (log entries 4 and 5). -/
structure State where
  /-- CMD[15:0], R23. -/
  cmd : CmdWord
  /-- STATUS[1] DONE, R25. -/
  done : Bool
  /-- STATUS[2] ERR, R25. -/
  err : Bool
  /-- STATUS[7:4] ERRCODE, R25. -/
  errCode : BitVec 4
  /-- IN_LEN[31:0], R26. -/
  inLen : BitVec 32
  /-- OUT_LEN[31:0], R27. -/
  outLen : BitVec 32
  /-- CAPS[31:0] = IN_CAP, hardwired, R28. -/
  inCap : Nat
  /-- CAPS[63:32] = OUT_CAP, hardwired, R28. -/
  outCap : Nat
  /-- The CFG_* registers, R29 to R35. -/
  cfg : Cfg
  /-- The buffer IN, R37, R38. -/
  inBuf : Memory
  /-- The buffer OUT, R37, R38. -/
  outBuf : Memory
  /-- The engine's phase and latched copy, R42, R43. -/
  engine : Engine
  /-- The model's own: the number of STARTs so far. -/
  starts : Nat
  /-- The model's own: the host operations still to come. -/
  script : List HostOp
  /-- The model's own: the values the host's reads returned, newest first. -/
  reads : List Word
deriving DecidableEq, Repr

/-- The registers of the map of 10_state.md R22; `reserved` stands for the offsets 0x78 to 0xF8 (R36). -/
inductive Reg where
  | cmd
  | ctrl
  | status
  | inLen
  | outLen
  | caps
  | cfgSpb
  | cfgCrcWidth
  | cfgCrcPoly
  | cfgHamK
  | cfgFc
  | cfgF0
  | cfgF1
  | cfgA0
  | cfgA1
  | reserved
deriving DecidableEq, Repr

/-- The reset values of the CFG_* registers (10_state.md R46). -/
def Cfg.reset : Cfg where
  spb := 50#32
  crcWidth := 32#6
  crcPoly := 0x04C11DB7#32
  hamK := 4#8
  fc := 1#32
  f0 := 1#32
  f1 := 2#32
  a0 := 0x0000000000000000#64
  a1 := 0x3FF0000000000000#64

/-- Power-on reset (10_state.md R46; 70_reset_and_hazards.md R280). The model's own fields start empty (log entry 17). -/
def State.reset : State where
  cmd := 0x0000#16
  done := false
  err := false
  errCode := 0#4
  inLen := 0#32
  outLen := 0#32
  inCap := Config.inCap
  outCap := Config.outCap
  cfg := Cfg.reset
  inBuf := []
  outBuf := []
  engine := .idle
  starts := 0
  script := []
  reads := []

end Sys2Proof.Machine
end

