-- ==== Sys2Proof/Machine/Flags.lean ====
section
/-! DEFINITION. The error codes and the STATUS word (10_state.md R25; 60_exceptions.md R257). -/

namespace Sys2Proof.Machine

/-- The code of an error kind (60_exceptions.md R257). -/
def ErrCode.code : ErrCode → BitVec 4
  | .frameTooLarge => 1#4
  | .missingFrameDelimiter => 2#4
  | .truncatedEscape => 3#4
  | .parityError => 4#4
  | .checksumError => 5#4
  | .crcMismatch => 6#4
  | .unknownStrategy => 7#4
  | .invalidConfig => 8#4
  | .malformedInput => 9#4
  | .hammingUncorrectable => 10#4
  | .bufferOverflow => 11#4
  | .illegalCommand => 12#4

/-- BUSY reads the engine's phase (10_state.md R25, R42). -/
def State.isBusy (s : State) : Bool :=
  match s.engine with
  | .idle => false
  | .busy _ _ => true

/-- STATUS as it is read: BUSY [0], DONE [1], ERR [2], ERRCODE [7:4], the other bits 0 (10_state.md R25). -/
def State.statusWord (s : State) : Word :=
  0#56 ++ s.errCode ++ 0#1 ++ BitVec.ofBool s.err ++ BitVec.ofBool s.done ++ BitVec.ofBool s.isBusy

end Sys2Proof.Machine
end

