-- ==== Sys2Proof/Machine/Operands.lean ====
section
/-! DEFINITION. The three element kinds and how a command reads and writes them (00_scope.md R12; 20_memory.md R58;
30_encoding.md R74), and the sequence helpers the command rules share (00_scope.md R8). -/

namespace Sys2Proof.Machine

/-- Kind byte, read: e[7:0] (20_memory.md R58). -/
def readByte (e : Word) : Byte := e.extractLsb' 0 8

/-- Kind byte, write: zext_64(v) (20_memory.md R58). -/
def writeByte (v : Byte) : Word := v.setWidth 64

/-- Kind bit, read: e[0] (20_memory.md R58). -/
def readBit (e : Word) : Bit := e.getLsbD 0

/-- Kind bit, write: zext_64(v) (20_memory.md R58). -/
def writeBit (v : Bit) : Word := if v then 1#64 else 0#64

/-- Kind sample, read: the binary64 value whose pattern is e (20_memory.md R58). -/
def readSample (e : Word) : F64 := e

/-- Kind sample, write: the bit pattern of the value (20_memory.md R58). -/
def writeSample (v : F64) : Word := v

/-- The sequence cut into floor(len / s) blocks of s elements; what does not fill a block is dropped
(43_line_coding.md R190; 44_passband.md R209; 42_error_control.md R163). -/
def chunks {α : Type} (s : Nat) (xs : List α) : List (List α) :=
  (List.range (xs.length / s)).map fun j => (xs.drop (j * s)).take s

/-- The bit sequence zero-padded to a multiple of g (40_bitvector.md R102; 44_passband.md R218, R221). -/
def padBits (g : Nat) (bt : List Bit) : List Bit :=
  bt ++ List.replicate ((g - bt.length % g) % g) false

/-- The number whose binary digits, most significant first, are the bits. -/
def bitsToNat (bt : List Bit) : Nat := bt.foldl (fun n b => 2 * n + b.toNat) 0

end Sys2Proof.Machine
end

