-- ==== Sys2Proof/Machine/Ops.lean ====
section
/-! DEFINITION. The named operations over buffers and registers: element reads and writes, START, completion with a
result or with an error, SOFT_RESET, and the one path every command takes through its checks (20_memory.md;
60_exceptions.md R250 to R256; 70_reset_and_hazards.md R283). -/

namespace Sys2Proof.Machine

/-! ## Buffers -/

/-- The canonical form of a buffer: indices strictly rising (log entry 10). -/
abbrev Memory.wf (m : Memory) : Prop := m.Pairwise fun a b => a.1 < b.1

/-- The element at an index, `none` where it is unwritten (20_memory.md R53, R55). -/
def memRead : Memory → Nat → Option Word
  | [], _ => none
  | (j, v) :: m, i => if i = j then some v else memRead m i

/-- Store an element and mark it written (20_memory.md R52). -/
def memWrite : Memory → Nat → Word → Memory
  | [], i, v => [(i, v)]
  | (j, u) :: m, i, v =>
    if i < j then (i, v) :: (j, u) :: m
    else if i = j then (i, v) :: m
    else (j, u) :: memWrite m i v

/-- The elements with index below n, with their marks: IN[0 : n] (10_state.md R43). -/
def memBelow (m : Memory) (n : Nat) : Memory := m.filter fun c => decide (c.1 < n)

/-- The buffer whose element at `start + k` is the k-th value and where every other element is unwritten. -/
def memFrom : Nat → List Word → Memory
  | _, [] => []
  | i, v :: vs => (i, v) :: memFrom (i + 1) vs

/-- What OUT holds after a command that gives these elements: OUT[0] on written, the rest unwritten
(20_memory.md R57). -/
def memOfList (vs : List Word) : Memory := memFrom 0 vs

/-- The n elements from an index on, read in index order; `none` if any is unwritten (20_memory.md R56). -/
def memReadRange (m : Memory) : Nat → Nat → Option (List Word)
  | _, 0 => some []
  | i, n + 1 =>
    match memRead m i, memReadRange m (i + 1) n with
    | some v, some vs => some (v :: vs)
    | _, _ => none

/-! ## START -/

/-- What START would latch in this state (60_exceptions.md R251; 10_state.md R43). -/
def State.snapshot (s : State) : Latched where
  cmd := s.cmd
  cfg := s.cfg
  inLen := s.inLen
  input := memBelow s.inBuf s.inLen.toNat

/-- The engine goes BUSY with the latched copy, STATUS becomes BUSY alone, and `wait` host steps are to come before
EXEC (60_exceptions.md R251). -/
def State.latch (s : State) (wait : Nat) : State :=
  { s with engine := .busy s.snapshot wait, done := false, err := false, errCode := 0#4 }

/-- START (60_exceptions.md R251); the number of host steps before EXEC is free (R252, log entry 4). -/
def State.start (s : State) : State :=
  { s.latch (Config.execDelay s.starts) with starts := s.starts + 1 }

/-- The operands a command runs on: the latched copy. No rule runs EXEC in an IDLE engine and `step` never does; there
the operands are what START would latch (log entry 8). -/
def State.operands (s : State) : Latched :=
  match s.engine with
  | .busy l _ => l
  | .idle => s.snapshot

/-! ## Completion -/

/-- complete(Ok(out)) on the elements to store (60_exceptions.md R255; 20_memory.md R57). -/
def State.completeOk (s : State) (out : List Word) : State :=
  { s with
    outBuf := memOfList out
    outLen := BitVec.ofNat 32 out.length
    done := true
    err := false
    errCode := 0#4
    engine := .idle }

/-- complete(Err(c)), the block's one error entry (60_exceptions.md R255, R265): nothing is saved and nothing jumps.
There is no return from it (R266): its state lasts until the next START or reset. -/
def State.completeErr (s : State) (c : ErrCode) : State :=
  { s with
    outBuf := []
    outLen := 0#32
    done := true
    err := true
    errCode := c.code
    engine := .idle }

/-- Completion with either result (60_exceptions.md R255). -/
def State.complete (s : State) : Except ErrCode (List Word) → State
  | .ok out => s.completeOk out
  | .error c => s.completeErr c

/-- Step 6 of the order of checks: an output longer than OUT_CAP is BufferOverflow (60_exceptions.md R253, R256). -/
def capOutput {β : Type} (cap : Nat) (write : β → Word) : Except ErrCode (List β) → Except ErrCode (List Word)
  | .ok out => if cap < out.length then .error .bufferOverflow else .ok (out.map write)
  | .error c => .error c

/-- Steps 3 to 6 of the order of checks of 60_exceptions.md R253, shared by every command that reads input: the length
check (R254), the input read as its kind or the fault UnwrittenRead (20_memory.md R56), the command's rule on the
latched configuration, the output check (R256), and completion (R255). -/
def runCommand {α β : Type} (read : Word → α) (write : β → Word) (rule : Cfg → List α → Except ErrCode (List β))
    (s : State) : Host.Outcome State Fault Refusal :=
  let l := s.operands
  if s.inCap < l.inLen.toNat then .next (s.completeErr .bufferOverflow)
  else
    match memReadRange l.input 0 l.inLen.toNat with
    | none => .fault .unwrittenRead
    | some es => .next (s.complete (capOutput s.outCap write (rule l.cfg (es.map read))))

/-! ## Reset -/

/-- SOFT_RESET: the block in the state of power-on reset (70_reset_and_hazards.md R283). CAPS is hardwired
(10_state.md R28), and the model's own fields are not the block's (log entry 17). -/
def State.softReset (s : State) : State :=
  { State.reset with
    inCap := s.inCap
    outCap := s.outCap
    starts := s.starts
    script := s.script
    reads := s.reads }

/-! ## Registers -/

/-- The register at a legal offset (10_state.md R22). -/
def regAt : Nat → Reg
  | 0x00 => .cmd
  | 0x08 => .ctrl
  | 0x10 => .status
  | 0x18 => .inLen
  | 0x20 => .outLen
  | 0x28 => .caps
  | 0x30 => .cfgSpb
  | 0x38 => .cfgCrcWidth
  | 0x40 => .cfgCrcPoly
  | 0x48 => .cfgHamK
  | 0x50 => .cfgFc
  | 0x58 => .cfgF0
  | 0x60 => .cfgF1
  | 0x68 => .cfgA0
  | 0x70 => .cfgA1
  | _ => .reserved

/-- The value a register reads as: stored bits, every reserved bit 0 (10_state.md R23 to R36). -/
def State.readReg (s : State) : Reg → Word
  | .cmd => s.cmd.setWidth 64
  | .ctrl => 0#64
  | .status => s.statusWord
  | .inLen => s.inLen.setWidth 64
  | .outLen => s.outLen.setWidth 64
  | .caps => BitVec.ofNat 32 s.outCap ++ BitVec.ofNat 32 s.inCap
  | .cfgSpb => s.cfg.spb.setWidth 64
  | .cfgCrcWidth => s.cfg.crcWidth.setWidth 64
  | .cfgCrcPoly => s.cfg.crcPoly.setWidth 64
  | .cfgHamK => s.cfg.hamK.setWidth 64
  | .cfgFc => s.cfg.fc.setWidth 64
  | .cfgF0 => s.cfg.f0.setWidth 64
  | .cfgF1 => s.cfg.f1.setWidth 64
  | .cfgA0 => s.cfg.a0
  | .cfgA1 => s.cfg.a1
  | .reserved => 0#64

/-- A write of CTRL: SOFT_RESET wins over START, and neither bit set has no effect (10_state.md R24). -/
def State.writeCtrl (s : State) (v : Word) : State :=
  if v.getLsbD 1 then s.softReset else if v.getLsbD 0 then s.start else s

/-- A write of a register by the host while the engine is IDLE: reserved bits are dropped, and a write of a read-only
register or a reserved offset has no effect (10_state.md R23 to R36; 20_memory.md R63). -/
def State.writeReg (s : State) (v : Word) : Reg → State
  | .cmd => { s with cmd := v.setWidth 16 }
  | .ctrl => s.writeCtrl v
  | .status => s
  | .inLen => { s with inLen := v.setWidth 32 }
  | .outLen => s
  | .caps => s
  | .cfgSpb => { s with cfg := { s.cfg with spb := v.setWidth 32 } }
  | .cfgCrcWidth => { s with cfg := { s.cfg with crcWidth := v.setWidth 6 } }
  | .cfgCrcPoly => { s with cfg := { s.cfg with crcPoly := v.setWidth 32 } }
  | .cfgHamK => { s with cfg := { s.cfg with hamK := v.setWidth 8 } }
  | .cfgFc => { s with cfg := { s.cfg with fc := v.setWidth 32 } }
  | .cfgF0 => { s with cfg := { s.cfg with f0 := v.setWidth 32 } }
  | .cfgF1 => { s with cfg := { s.cfg with f1 := v.setWidth 32 } }
  | .cfgA0 => { s with cfg := { s.cfg with a0 := v } }
  | .cfgA1 => { s with cfg := { s.cfg with a1 := v } }
  | .reserved => s

end Sys2Proof.Machine
end

