-- ==== Sys2Proof/Machine/Util.lean ====
section
/-! DEFINITION. The UTIL family: bit and byte conversion, most significant bit first (40_bitvector.md). -/

namespace Sys2Proof.Machine

/-- The bits of one byte, bit 7 first (20_memory.md R59). -/
def byteBits (b : Byte) : List Bit :=
  [b.getLsbD 7, b.getLsbD 6, b.getLsbD 5, b.getLsbD 4, b.getLsbD 3, b.getLsbD 2, b.getLsbD 1, b.getLsbD 0]

/-- `bits(bs)` (40_bitvector.md R100). -/
def bits (bs : List Byte) : List Bit := bs.flatMap byteBits

/-- The byte of a group of eight bits, the first being bit 7 (40_bitvector.md R102). -/
def byteOfBits (b7 b6 b5 b4 b3 b2 b1 b0 : Bit) : Byte :=
  BitVec.ofNat 8 (b7.toNat * 128 + b6.toNat * 64 + b5.toNat * 32 + b4.toNat * 16 + b3.toNat * 8 + b2.toNat * 4
    + b1.toNat * 2 + b0.toNat)

/-- Consecutive groups of eight bits as bytes (20_memory.md R59). `bytes` pads first, so no group is left partial. -/
def groupBytes : List Bit → List Byte
  | b7 :: b6 :: b5 :: b4 :: b3 :: b2 :: b1 :: b0 :: rest => byteOfBits b7 b6 b5 b4 b3 b2 b1 b0 :: groupBytes rest
  | _ => []

/-- `bytes(bt)`, an incomplete final byte zero-padded (40_bitvector.md R102). -/
def bytes (bt : List Bit) : List Byte := groupBytes (padBits 8 bt)

/-- B2BITS (40_bitvector.md R101). -/
def execB2bits (s : State) : Host.Outcome State Fault Refusal :=
  runCommand readByte writeBit (fun _ bs => .ok (bits bs)) s

/-- BITS2B (40_bitvector.md R103). -/
def execBits2b (s : State) : Host.Outcome State Fault Refusal :=
  runCommand readBit writeByte (fun _ bt => .ok (bytes bt)) s

end Sys2Proof.Machine
end

