-- ==== Sys2Proof/Machine/ErrorControl.lean ====
section
/-! DEFINITION. The ERRCTL family: parity, checksum, CRC, Hamming with configurable k, Hamming(8,4)
(42_error_control.md). -/

namespace Sys2Proof.Machine

/-! ## No protection and unknown selectors -/

/-- EC_NONE_ENC: the input (42_error_control.md R140). -/
def execEcNoneEnc (s : State) : Host.Outcome State Fault Refusal :=
  runCommand readByte writeByte (fun _ bs => .ok bs) s

/-- EC_NONE_DEC: the input (42_error_control.md R141). -/
def execEcNoneDec (s : State) : Host.Outcome State Fault Refusal :=
  runCommand readByte writeByte (fun _ bs => .ok bs) s

/-- EC_PASS: the input, whatever the VARIANT and DIR (42_error_control.md R142). -/
def execEcPass (_variant : BitVec 4) (_dir : Dir) (s : State) : Host.Outcome State Fault Refusal :=
  runCommand readByte writeByte (fun _ bs => .ok bs) s

/-! ## Even parity -/

/-- popcount of a byte (00_scope.md R7). -/
def popcount (b : Byte) : Nat := (byteBits b).count true

/-- The number of 1 bits of a byte sequence (42_error_control.md R143). -/
def onesCount (bs : List Byte) : Nat := (bs.map popcount).sum

/-- The payload and its parity byte (42_error_control.md R143). -/
def parEncode (bs : List Byte) : List Byte := bs ++ [BitVec.ofNat 8 (onesCount bs % 2)]

/-- The payload of a parity-protected block (42_error_control.md R144). -/
def parCheck (bs : List Byte) : Except ErrCode (List Byte) :=
  if bs.length < 1 then .error .malformedInput
  else if onesCount bs % 2 = 1 then .error .parityError
  else .ok (bs.take (bs.length - 1))

/-- PAR_ENC (42_error_control.md R143). -/
def execParEnc (s : State) : Host.Outcome State Fault Refusal :=
  runCommand readByte writeByte (fun _ bs => .ok (parEncode bs)) s

/-- PAR_CHK (42_error_control.md R144). -/
def execParChk (s : State) : Host.Outcome State Fault Refusal :=
  runCommand readByte writeByte (fun _ bs => parCheck bs) s

/-! ## One's-complement checksum -/

/-- One addition with its end-around carry folded (42_error_control.md R145). -/
def osumStep (t : Nat) (b : Byte) : Nat := ((t + b.toNat) &&& 0xFF) + ((t + b.toNat) >>> 8)

/-- `osum(bs)` (42_error_control.md R145). -/
def osum (bs : List Byte) : Nat := bs.foldl osumStep 0

/-- The payload and its checksum byte (42_error_control.md R146). -/
def csumEncode (bs : List Byte) : List Byte := bs ++ [BitVec.ofNat 8 (0xFF - osum bs)]

/-- The payload of a checksum-protected block (42_error_control.md R147). -/
def csumCheck (bs : List Byte) : Except ErrCode (List Byte) :=
  if bs.length < 1 then .error .malformedInput
  else if 0xFF - osum bs ≠ 0 then .error .checksumError
  else .ok (bs.take (bs.length - 1))

/-- CSUM_ENC (42_error_control.md R146). -/
def execCsumEnc (s : State) : Host.Outcome State Fault Refusal :=
  runCommand readByte writeByte (fun _ bs => .ok (csumEncode bs)) s

/-- CSUM_CHK (42_error_control.md R147). -/
def execCsumChk (s : State) : Host.Outcome State Fault Refusal :=
  runCommand readByte writeByte (fun _ bs => csumCheck bs) s

/-! ## CRC -/

/-- One bit through the W-bit shift register c (42_error_control.md R150). -/
def crcStep (width poly : Nat) (c : Nat) (b : Bit) : Nat :=
  let shifted := (c <<< 1) &&& (2 ^ width - 1)
  if c.testBit (width - 1) != b then shifted ^^^ (poly &&& (2 ^ width - 1)) else shifted

/-- `crc(bs, W, P)`: start value 0, most significant bit of each byte first, no final XOR (42_error_control.md R150). -/
def crc (bs : List Byte) (width poly : Nat) : Nat := (bits bs).foldl (crcStep width poly) 0

/-- The trailer's length ceil(W / 8) (42_error_control.md R151). -/
def crcBytes (width : Nat) : Nat := (width + 7) / 8

/-- `crcfield(c, W)`: the value right-aligned in ceil(W / 8) big-endian bytes (42_error_control.md R151). -/
def crcField (c width : Nat) : List Byte :=
  (List.range (crcBytes width)).map fun j => BitVec.ofNat 8 (c >>> (8 * (crcBytes width - 1 - j)))

/-- The payload and its CRC trailer (42_error_control.md R152). -/
def crcGenerate (width poly : Nat) (bs : List Byte) : Except ErrCode (List Byte) :=
  if width < 1 ∨ 32 < width then .error .invalidConfig else .ok (bs ++ crcField (crc bs width poly) width)

/-- The payload of a CRC-protected block (42_error_control.md R153). -/
def crcCheck (width poly : Nat) (bs : List Byte) : Except ErrCode (List Byte) :=
  if width < 1 ∨ 32 < width then .error .invalidConfig
  else if bs.length < crcBytes width then .error .malformedInput
  else
    let payload := bs.take (bs.length - crcBytes width)
    if crcField (crc payload width poly) width ≠ bs.drop (bs.length - crcBytes width) then .error .crcMismatch
    else .ok payload

/-- CRC_GEN (42_error_control.md R152). -/
def execCrcGen (s : State) : Host.Outcome State Fault Refusal :=
  runCommand readByte writeByte (fun cfg bs => crcGenerate cfg.crcWidth.toNat cfg.crcPoly.toNat bs) s

/-- CRC_CHK (42_error_control.md R153). -/
def execCrcChk (s : State) : Host.Outcome State Fault Refusal :=
  runCommand readByte writeByte (fun cfg bs => crcCheck cfg.crcWidth.toNat cfg.crcPoly.toNat bs) s

/-! ## Hamming with configurable k -/

/-- p, the smallest integer with 2^p ≥ k + p + 1; k + 1 is always large enough (42_error_control.md R158). -/
def hamParityBits (k : Nat) : Nat := ((List.range (k + 2)).find? fun p => decide (k + p + 1 ≤ 2 ^ p)).getD 0

/-- n = k + p, the block size (42_error_control.md R158). -/
def hamBlockBits (k : Nat) : Nat := k + hamParityBits k

/-- A position (from 1) that holds a parity bit (42_error_control.md R158). -/
def isPowerOfTwo (q : Nat) : Bool := q &&& (q - 1) == 0

/-- The positions 1 to n of a block (42_error_control.md R158). -/
def blockPositions (n : Nat) : List Nat := List.range' 1 n

/-- The data bits at the positions that are not powers of two, in order, and 0 at the others
(42_error_control.md R159). -/
def hamPlace : List Nat → List Bit → List Bit
  | [], _ => []
  | q :: qs, d => if isPowerOfTwo q then false :: hamPlace qs d else d.headD false :: hamPlace qs d.tail

/-- The XOR of c[q] over every position q whose number has bit i set (42_error_control.md R159, R161). -/
def groupParity (c : List Bit) (i : Nat) : Bit :=
  ((blockPositions c.length).zip c).foldl (fun acc qb => if qb.1.testBit i then acc != qb.2 else acc) false

/-- `encblock(d, k)`: each parity bit is computed while its own position still holds 0 (42_error_control.md R159). -/
def hamEncodeBlock (k : Nat) (d : List Bit) : List Bit :=
  let c := hamPlace (blockPositions (hamBlockBits k)) d
  ((blockPositions (hamBlockBits k)).zip c).map fun qb =>
    if isPowerOfTwo qb.1 then groupParity c (Nat.log2 qb.1) else qb.2

/-- `syndrome(c, n, p)` (42_error_control.md R161). -/
def syndrome (p : Nat) (c : List Bit) : Nat :=
  ((List.range p).map fun i => if groupParity c i then 2 ^ i else 0).sum

/-- The bits at the positions that are not powers of two, in order (42_error_control.md R162). -/
def hamDataBits (c : List Bit) : List Bit :=
  (((blockPositions c.length).zip c).filter fun qb => !isPowerOfTwo qb.1).map fun qb => qb.2

/-- The block with the bit at position S inverted where 1 ≤ S ≤ n (42_error_control.md R162). -/
def correctBit (c : List Bit) (sy : Nat) : List Bit :=
  if 1 ≤ sy ∧ sy ≤ c.length then c.modify (sy - 1) (!·) else c

/-- `decblock(c, k)` (42_error_control.md R162). -/
def hamDecodeBlock (k : Nat) (c : List Bit) : List Bit :=
  hamDataBits (correctBit c (syndrome (hamParityBits k) c))

/-- The two bytes, big-endian, of a bit count (42_error_control.md R160; 20_memory.md R60). -/
def countField (count : Nat) : List Byte := [BitVec.ofNat 8 (count >>> 8), BitVec.ofNat 8 count]

/-- The Hamming-coded form of a payload (42_error_control.md R160). -/
def hamEncode (k : Nat) (bs : List Byte) : Except ErrCode (List Byte) :=
  if k = 0 then .error .invalidConfig
  else if 65535 < 8 * bs.length then .error .frameTooLarge
  else .ok (bytes ((chunks k (padBits k (bits bs))).flatMap (hamEncodeBlock k)) ++ countField (8 * bs.length))

/-- The bit count in the last two bytes (42_error_control.md R163). -/
def countOf (bs : List Byte) : Nat :=
  (bs.getD (bs.length - 2) 0#8).toNat * 256 + (bs.getD (bs.length - 1) 0#8).toNat

/-- The payload of a Hamming-coded block; bits that do not fill a block are ignored, and the count truncates the
decoded data (42_error_control.md R163). -/
def hamDecode (k : Nat) (bs : List Byte) : Except ErrCode (List Byte) :=
  if k = 0 then .error .invalidConfig
  else if bs.length < 2 then .error .malformedInput
  else
    let data := (chunks (hamBlockBits k) (bits (bs.take (bs.length - 2)))).flatMap (hamDecodeBlock k)
    .ok (bytes (data.take (countOf bs)))

/-- HAM_ENC (42_error_control.md R160). -/
def execHamEnc (s : State) : Host.Outcome State Fault Refusal :=
  runCommand readByte writeByte (fun cfg bs => hamEncode cfg.hamK.toNat bs) s

/-- HAM_DEC (42_error_control.md R163). -/
def execHamDec (s : State) : Host.Outcome State Fault Refusal :=
  runCommand readByte writeByte (fun cfg bs => hamDecode cfg.hamK.toNat bs) s

/-! ## Hamming(8,4) -/

/-- `h84enc(v)`: the Hamming(7,4) block of the nibble and an overall even-parity bit (42_error_control.md R170). -/
def h84Encode (v : BitVec 4) : Byte :=
  let c := hamEncodeBlock 4 [v.getLsbD 3, v.getLsbD 2, v.getLsbD 1, v.getLsbD 0]
  BitVec.ofNat 8 (2 * bitsToNat c + c.count true % 2)

/-- The two code bytes of a byte, high nibble first (42_error_control.md R171). -/
def ham84Encode (bs : List Byte) : List Byte :=
  bs.flatMap fun b => [h84Encode (b.extractLsb' 4 4), h84Encode (b.extractLsb' 0 4)]

/-- `h84dec(e)` (42_error_control.md R172). -/
def h84Decode (e : Byte) : Except ErrCode (BitVec 4) :=
  let c := (byteBits e).take 7
  let sy := syndrome 3 c
  if popcount e % 2 = 0 ∧ sy ≠ 0 then .error .hammingUncorrectable
  else
    let fixed := if popcount e % 2 = 1 then correctBit c sy else c
    .ok (BitVec.ofNat 4 (bitsToNat (hamDataBits fixed)))

/-- The bytes of successive pairs of code bytes; the first uncorrectable one ends the scan
(42_error_control.md R173). -/
def ham84Pairs : List Byte → Except ErrCode (List Byte)
  | hi :: lo :: rest =>
    match h84Decode hi with
    | .error c => .error c
    | .ok h =>
      match h84Decode lo with
      | .error c => .error c
      | .ok l => (ham84Pairs rest).map ((h ++ l) :: ·)
  | _ => .ok []

/-- The payload of a Hamming(8,4) code (42_error_control.md R173). -/
def ham84Decode (bs : List Byte) : Except ErrCode (List Byte) :=
  if bs.length % 2 = 1 then .error .malformedInput else ham84Pairs bs

/-- HAM84_ENC (42_error_control.md R171). -/
def execHam84Enc (s : State) : Host.Outcome State Fault Refusal :=
  runCommand readByte writeByte (fun _ bs => .ok (ham84Encode bs)) s

/-- HAM84_DEC (42_error_control.md R173). -/
def execHam84Dec (s : State) : Host.Outcome State Fault Refusal :=
  runCommand readByte writeByte (fun _ bs => ham84Decode bs) s

end Sys2Proof.Machine
end

