-- ==== Sys2Proof/Machine/Framing.lean ====
section
/-! DEFINITION. The FRAMING family (41_framing.md). -/

namespace Sys2Proof.Machine

/-- FLAG (41_framing.md R110). -/
def flagByte : Byte := 0x7E#8

/-- ESC (41_framing.md R110). -/
def escByte : Byte := 0x7D#8

/-! ## No framing and unknown selectors -/

/-- FRM_NONE_ENC: the input (41_framing.md R111). -/
def execFrmNoneEnc (s : State) : Host.Outcome State Fault Refusal :=
  runCommand readByte writeByte (fun _ bs => .ok bs) s

/-- FRM_NONE_DEC: the input (41_framing.md R112). -/
def execFrmNoneDec (s : State) : Host.Outcome State Fault Refusal :=
  runCommand readByte writeByte (fun _ bs => .ok bs) s

/-- FRM_PASS: the input, whatever the VARIANT and DIR (41_framing.md R113). -/
def execFrmPass (_variant : BitVec 4) (_dir : Dir) (s : State) : Host.Outcome State Fault Refusal :=
  runCommand readByte writeByte (fun _ bs => .ok bs) s

/-! ## Length-prefix -/

/-- The frame: one byte len + 1, then the payload, which is at most 254 bytes (41_framing.md R114). -/
def lpEncode (bs : List Byte) : Except ErrCode (List Byte) :=
  if 254 < bs.length then .error .frameTooLarge else .ok (BitVec.ofNat 8 (bs.length + 1) :: bs)

/-- The frame without its first byte, unchecked (41_framing.md R115). -/
def lpDecode (bs : List Byte) : List Byte := bs.drop 1

/-- FRM_LP_ENC (41_framing.md R114). -/
def execFrmLpEnc (s : State) : Host.Outcome State Fault Refusal :=
  runCommand readByte writeByte (fun _ bs => lpEncode bs) s

/-- FRM_LP_DEC (41_framing.md R115). -/
def execFrmLpDec (s : State) : Host.Outcome State Fault Refusal :=
  runCommand readByte writeByte (fun _ bs => .ok (lpDecode bs)) s

/-! ## Byte-stuffing -/

/-- `esc(b)` (41_framing.md R117). -/
def escapeByte (b : Byte) : List Byte :=
  if b = escByte then [escByte, escByte] else if b = flagByte then [escByte, flagByte] else [b]

/-- The byte-stuffed frame (41_framing.md R118). -/
def bysEncode (bs : List Byte) : List Byte := [flagByte] ++ bs.flatMap escapeByte ++ [flagByte]

/-- `delimited(in)` (41_framing.md R120). -/
def delimited (bs : List Byte) : Bool :=
  decide (2 ≤ bs.length) && bs.head? == some flagByte && bs.getLast? == some flagByte

/-- in[1 : n - 1], the frame without its delimiters (41_framing.md R121, R128). -/
def frameBody (bs : List Byte) : List Byte := (bs.drop 1).take (bs.length - 2)

/-- The scan of the body: an ESC makes the next byte literal, and an ESC with no next byte is TruncatedEscape
(41_framing.md R121). -/
def unescape : List Byte → Except ErrCode (List Byte)
  | [] => .ok []
  | [b] => if b = escByte then .error .truncatedEscape else .ok [b]
  | b :: c :: rest =>
    if b = escByte then (unescape rest).map (c :: ·) else (unescape (c :: rest)).map (b :: ·)

/-- The payload of a byte-stuffed frame (41_framing.md R121). -/
def bysDecode (bs : List Byte) : Except ErrCode (List Byte) :=
  if delimited bs then unescape (frameBody bs) else .error .missingFrameDelimiter

/-- FRM_BYS_ENC (41_framing.md R118). -/
def execFrmBysEnc (s : State) : Host.Outcome State Fault Refusal :=
  runCommand readByte writeByte (fun _ bs => .ok (bysEncode bs)) s

/-- FRM_BYS_DEC (41_framing.md R121). -/
def execFrmBysDec (s : State) : Host.Outcome State Fault Refusal :=
  runCommand readByte writeByte (fun _ bs => bysDecode bs) s

/-! ## Bit-stuffing -/

/-- `stuff` from run counter r on (41_framing.md R124). -/
def stuffFrom : Nat → List Bit → List Bit
  | _, [] => []
  | r, true :: bt => if r + 1 = 5 then true :: false :: stuffFrom 0 bt else true :: stuffFrom (r + 1) bt
  | _, false :: bt => false :: stuffFrom 0 bt

/-- `stuff(bt)`: a 0 after every five 1 bits in a row (41_framing.md R124). -/
def stuff (bt : List Bit) : List Bit := stuffFrom 0 bt

/-- The bit-stuffed frame (41_framing.md R125). -/
def bisEncode (bs : List Byte) : List Byte := [flagByte] ++ bytes (stuff (bits bs)) ++ [flagByte]

/-- `destuff` from run counter r on: the bit after five 1 bits is dropped, whatever its value (41_framing.md R127). -/
def destuffFrom : Nat → List Bit → List Bit
  | _, [] => []
  | _, [b] => [b]
  | r, true :: c :: bt => if r + 1 = 5 then true :: destuffFrom 0 bt else true :: destuffFrom (r + 1) (c :: bt)
  | _, false :: c :: bt => false :: destuffFrom 0 (c :: bt)

/-- `destuff(bt)` (41_framing.md R127). -/
def destuff (bt : List Bit) : List Bit := destuffFrom 0 bt

/-- The payload of a bit-stuffed frame; destuffed bits that do not fill a byte are dropped (41_framing.md R128). -/
def bisDecode (bs : List Byte) : Except ErrCode (List Byte) :=
  if delimited bs then
    let d := destuff (bits (frameBody bs))
    .ok (bytes (d.take (8 * (d.length / 8))))
  else .error .missingFrameDelimiter

/-- FRM_BIS_ENC (41_framing.md R125). -/
def execFrmBisEnc (s : State) : Host.Outcome State Fault Refusal :=
  runCommand readByte writeByte (fun _ bs => .ok (bisEncode bs)) s

/-- FRM_BIS_DEC (41_framing.md R128). -/
def execFrmBisDec (s : State) : Host.Outcome State Fault Refusal :=
  runCommand readByte writeByte (fun _ bs => bisDecode bs) s

end Sys2Proof.Machine
end

