-- ==== Sys2Proof/Machine/Illegal.lean ====
section
/-! DEFINITION. The words outside the command set (30_encoding.md R82). -/

namespace Sys2Proof.Machine

/-- ILLEGAL: ends with IllegalCommand before any other check and reads no input (60_exceptions.md R253, R261). -/
def execIllegal (_word : CmdWord) (s : State) : Host.Outcome State Fault Refusal :=
  .next (s.completeErr .illegalCommand)

end Sys2Proof.Machine
end

