-- ==== Sys2Proof/Machine/Binary64.lean ====
section
/-! DEFINITION. IEEE 754 binary64 arithmetic on bit patterns, rounding to nearest, ties to even (00_scope.md R10).
Every finite value is an exact integer multiple of 2^-1074; an operation is computed exactly on those integers and
rounded once. -/

namespace Sys2Proof.Machine

/-- The sign bit. -/
def fsign (x : F64) : Bool := x.getLsbD 63

/-- The biased exponent field, bits [62:52]. -/
def fexp (x : F64) : Nat := (x.extractLsb' 52 11).toNat

/-- The fraction field, bits [51:0]. -/
def ffrac (x : F64) : Nat := (x.extractLsb' 0 52).toNat

/-- NaN: exponent all ones, fraction not zero. -/
def isNan (x : F64) : Bool := fexp x == 2047 && ffrac x != 0

/-- Infinity: exponent all ones, fraction zero. -/
def isInf (x : F64) : Bool := fexp x == 2047 && ffrac x == 0

/-- The magnitude of a value that is not a NaN, in units of 2^-1074. An infinity gets a magnitude above every finite
one, which is all a comparison asks of it. -/
def fmag (x : F64) : Nat :=
  if fexp x = 0 then ffrac x else (2 ^ 52 + ffrac x) * 2 ^ (fexp x - 1)

/-- The signed value in units of 2^-1074. -/
def fval (x : F64) : Int := if fsign x then -(fmag x : Int) else (fmag x : Int)

/-- The rational p / q (q > 0) rounded to the nearest integer, ties to even. -/
def roundQuot (p q : Nat) : Nat :=
  let m := p / q
  let r := p % q
  if q < 2 * r ∨ (2 * r = q ∧ m % 2 = 1) then m + 1 else m

/-- The exponent and fraction fields, as one number, of the magnitude p / q (q > 0, in units of 2^-1074) rounded to
nearest, ties to even; a magnitude that rounds past the largest finite value gives infinity. A carry out of the
fraction steps the exponent field by itself. -/
def roundMag (p q : Nat) : Nat :=
  let shift := Nat.log2 (p / q) - 52
  min (shift * 2 ^ 52 + roundQuot p (q * 2 ^ shift)) 0x7FF0000000000000

/-- The pattern with a sign and the two lower fields. -/
def fpack (sign : Bool) (mag : Nat) : F64 :=
  BitVec.ofNat 64 (if sign then 0x8000000000000000 + mag else mag)

/-- The infinity of a sign. -/
def finf (sign : Bool) : F64 := fpack sign 0x7FF0000000000000

/-- The zero of a sign. -/
def fzero (sign : Bool) : F64 := fpack sign 0

/-- The NaN an operation gives: some NaN, its sign and fraction free (log entry 3). The free pattern keeps its sign and
fraction; only a fraction of zero, which would be an infinity, is replaced. -/
def fnan (op : FloatOp) (a b : F64) : F64 :=
  let free := Config.nanFree op a b
  if ffrac free = 0 then free ||| 0x7FF8000000000000#64 else free ||| 0x7FF0000000000000#64

/-- `negf`: flips the sign bit (00_scope.md R10). -/
def negf (x : F64) : F64 := x ^^^ 0x8000000000000000#64

/-- `absf`: clears the sign bit (00_scope.md R10). -/
def absf (x : F64) : F64 := x &&& 0x7FFFFFFFFFFFFFFF#64

/-- The sum of two finite values. An exact sum of zero is +0.0 unless both operands are -0.0. -/
def addFinite (a b : F64) : F64 :=
  let n := fval a + fval b
  if n = 0 then fzero (fsign a && fsign b) else fpack (decide (n < 0)) (roundMag n.natAbs 1)

/-- The sum of two values that are not NaN nor opposite infinities. -/
def addNumbers (a b : F64) : F64 :=
  if isInf a then a else if isInf b then b else addFinite a b

/-- `+f` (00_scope.md R10). -/
def fadd (a b : F64) : F64 :=
  if isNan a || isNan b || (isInf a && isInf b && fsign a != fsign b) then fnan .add a b
  else addNumbers a b

/-- `-f` (00_scope.md R10). -/
def fsub (a b : F64) : F64 :=
  if isNan a || isNan b || (isInf a && isInf b && fsign a == fsign b) then fnan .sub a b
  else addNumbers a (negf b)

/-- `*f` (00_scope.md R10). -/
def fmul (a b : F64) : F64 :=
  let sign := fsign a != fsign b
  if isNan a || isNan b || (isInf a && fmag b == 0) || (fmag a == 0 && isInf b) then fnan .mul a b
  else if isInf a || isInf b then finf sign
  else fpack sign (roundMag (fmag a * fmag b) (2 ^ 1074))

/-- `/f` (00_scope.md R10). -/
def fdiv (a b : F64) : F64 :=
  let sign := fsign a != fsign b
  if isNan a || isNan b || (isInf a && isInf b) || (fmag a == 0 && fmag b == 0) then fnan .div a b
  else if isInf a then finf sign
  else if isInf b then fzero sign
  else if fmag b = 0 then finf sign
  else fpack sign (roundMag (fmag a * 2 ^ 1074) (fmag b))

/-- `<f`: false whenever an operand is NaN (00_scope.md R10). -/
def flt (a b : F64) : Bool := !isNan a && !isNan b && decide (fval a < fval b)

/-- `>f` (00_scope.md R10). -/
def fgt (a b : F64) : Bool := flt b a

/-- `==f`: +0.0 equals -0.0, and a NaN equals nothing (00_scope.md R10). -/
def feq (a b : F64) : Bool := !isNan a && !isNan b && decide (fval a = fval b)

/-- The binary64 value nearest the rational ±p / q (q > 0): what a decimal literal of a host program stands for
(30_encoding.md R86). -/
def ofRatio (sign : Bool) (p q : Nat) : F64 := fpack sign (roundMag (p * 2 ^ 1074) q)

/-- `f64(n)`, exact below 2^53 (00_scope.md R10). -/
def f64 (n : Nat) : F64 := ofRatio false n 1

/-- `f64` of an integer of either sign (44_passband.md R222). -/
def f64Int (n : Int) : F64 := if n < 0 then ofRatio true n.natAbs 1 else f64 n.natAbs

/-- +0.0 (43_line_coding.md R193). -/
def fPosZero : F64 := 0x0000000000000000#64

/-- +1.0 (43_line_coding.md R193). -/
def fPosOne : F64 := 0x3FF0000000000000#64

/-- -1.0 (43_line_coding.md R193). -/
def fNegOne : F64 := 0xBFF0000000000000#64

/-- PI64, the binary64 value nearest π (00_scope.md R10). -/
def pi64 : F64 := 0x400921FB54442D18#64

/-- `sumf`: the sum from left to right, starting at +0.0 (00_scope.md R10). -/
def sumf (xs : List F64) : F64 := xs.foldl fadd fPosZero

end Sys2Proof.Machine
end

