-- ==== Sys2Proof/Machine/LineCoding.lean ====
section
/-! DEFINITION. The LINECODE family: NRZ-Polar, Manchester, Bipolar-AMI (43_line_coding.md). Every configuration check
comes before the rule's computation (60_exceptions.md R253 step 5). -/

namespace Sys2Proof.Machine

/-- `meanf(xs)`: the sum divided by the count (43_line_coding.md R193). -/
def meanf (xs : List F64) : F64 := fdiv (sumf xs) (f64 xs.length)

/-- The decision "mean > 0", false for a NaN mean (43_line_coding.md R193).
DESIGN CHOICE, unsafe (log entry 19): R193 gives the decision as a formula, and its remark says that every
positive sum below `len(xs)` times the smallest subnormal gives 0. With the rounding of 00_scope.md R10 the formula
gives 0 for such a sum up to half of that bound, and 1 above the half, where the quotient rounds to the smallest
subnormal. The model follows the formula. -/
def meanPositive (xs : List F64) : Bit := fgt (meanf xs) fPosZero

/-- The threshold of AMI_DEC, the binary64 value nearest 0.1 (43_line_coding.md R202). -/
def amiThreshold : F64 := 0x3FB999999999999A#64

/-! ## NRZ-Polar -/

/-- The samples of an NRZ-Polar signal (43_line_coding.md R191). -/
def nrzEncode (s : Nat) (bt : List Bit) : List F64 :=
  bt.flatMap fun b => List.replicate s (if b then fPosOne else fNegOne)

/-- The bits of an NRZ-Polar signal (43_line_coding.md R192; tiny positive sums: log entry 19). -/
def nrzDecode (s : Nat) (xs : List F64) : List Bit := (chunks s xs).map meanPositive

/-- NRZ_ENC (43_line_coding.md R191). -/
def execNrzEnc (s : State) : Host.Outcome State Fault Refusal :=
  runCommand readBit writeSample
    (fun cfg bt => if cfg.spb.toNat < 1 then .error .invalidConfig else .ok (nrzEncode cfg.spb.toNat bt)) s

/-- NRZ_DEC (43_line_coding.md R192). -/
def execNrzDec (s : State) : Host.Outcome State Fault Refusal :=
  runCommand readSample writeBit
    (fun cfg xs => if cfg.spb.toNat < 1 then .error .invalidConfig else .ok (nrzDecode cfg.spb.toNat xs)) s

/-! ## Manchester -/

/-- The samples of a Manchester signal; the first half has floor(s / 2) of them (43_line_coding.md R194, R195). -/
def manEncode (s : Nat) (bt : List Bit) : List F64 :=
  bt.flatMap fun b =>
    if b then List.replicate (s / 2) fPosOne ++ List.replicate (s - s / 2) fNegOne
    else List.replicate (s / 2) fNegOne ++ List.replicate (s - s / 2) fPosOne

/-- The bits of a Manchester signal, from the first half of each block alone (43_line_coding.md R196; tiny
positive sums: log entry 19). -/
def manDecode (s : Nat) (xs : List F64) : List Bit := (chunks s xs).map fun blk => meanPositive (blk.take (s / 2))

/-- MAN_ENC (43_line_coding.md R195). -/
def execManEnc (s : State) : Host.Outcome State Fault Refusal :=
  runCommand readBit writeSample
    (fun cfg bt => if cfg.spb.toNat < 2 then .error .invalidConfig else .ok (manEncode cfg.spb.toNat bt)) s

/-- MAN_DEC (43_line_coding.md R196). -/
def execManDec (s : State) : Host.Outcome State Fault Refusal :=
  runCommand readSample writeBit
    (fun cfg xs => if cfg.spb.toNat < 2 then .error .invalidConfig else .ok (manDecode cfg.spb.toNat xs)) s

/-! ## Bipolar-AMI -/

/-- The samples of a Bipolar-AMI signal from polarity accumulator `last` on (43_line_coding.md R200, R201). -/
def amiEncodeFrom (s : Nat) : F64 → List Bit → List F64
  | _, [] => []
  | last, true :: bt => List.replicate s (negf last) ++ amiEncodeFrom s (negf last) bt
  | last, false :: bt => List.replicate s fPosZero ++ amiEncodeFrom s last bt

/-- The samples of a Bipolar-AMI signal: every command starts the accumulator at -1.0 (43_line_coding.md R200). -/
def amiEncode (s : Nat) (bt : List Bit) : List F64 := amiEncodeFrom s fNegOne bt

/-- The bits of a Bipolar-AMI signal; the polarity is not checked (43_line_coding.md R202). -/
def amiDecode (s : Nat) (xs : List F64) : List Bit :=
  (chunks s xs).map fun blk => !flt (absf (meanf blk)) amiThreshold

/-- AMI_ENC (43_line_coding.md R201). -/
def execAmiEnc (s : State) : Host.Outcome State Fault Refusal :=
  runCommand readBit writeSample
    (fun cfg bt => if cfg.spb.toNat < 1 then .error .invalidConfig else .ok (amiEncode cfg.spb.toNat bt)) s

/-- AMI_DEC (43_line_coding.md R202). -/
def execAmiDec (s : State) : Host.Outcome State Fault Refusal :=
  runCommand readSample writeBit
    (fun cfg xs => if cfg.spb.toNat < 1 then .error .invalidConfig else .ok (amiDecode cfg.spb.toNat xs)) s

/-! ## Unknown selector -/

/-- LC_UNKNOWN: ends with UnknownStrategy before any other check (43_line_coding.md R203; 60_exceptions.md R253). -/
def execLcUnknown (_variant : BitVec 4) (_dir : Dir) (s : State) : Host.Outcome State Fault Refusal :=
  .next (s.completeErr .unknownStrategy)

end Sys2Proof.Machine
end

