-- ==== Sys2Proof/Machine/Passband.lean ====
section
/-! DEFINITION. The PASSBAND family: ASK, FSK, QPSK, 16-QAM (44_passband.md). The waveform functions take the sine and
cosine as arguments; the commands use the OPEN Sin64 and Cos64 (00_scope.md R5, log entry 2). -/

namespace Sys2Proof.Machine

/-! ## Carriers and correlation -/

/-- t_j, the time of sample j of s in one interval (44_passband.md R210). -/
def timeAt (s j : Nat) : F64 := fmul (f64 j) (fdiv (f64 1) (f64 s))

/-- arg(f, j), the carrier argument (44_passband.md R211). -/
def carrierArg (s f j : Nat) : F64 := fmul (fmul (fmul (f64 2) pi64) (f64 f)) (timeAt s j)

/-- phi(d), a phase of d degrees (44_passband.md R211). -/
def phaseOf (d : Nat) : F64 := fdiv (fmul (f64 d) pi64) (f64 180)

/-- The reference wave of one interval: `wave` at the argument of each of the s samples (44_passband.md R215). -/
def carrier (wave : F64 → F64) (s f : Nat) : List F64 := (List.range s).map fun j => wave (carrierArg s f j)

/-- `corr(r, ref)`: the products summed left to right from +0.0 (44_passband.md R213). -/
def corr (r ref : List F64) : F64 := sumf (List.zipWith fmul r ref)

/-! ## ASK -/

/-- The samples of an ASK signal (44_passband.md R214). -/
def askModulate (sin : F64 → F64) (s fc : Nat) (a0 a1 : F64) (bt : List Bit) : List F64 :=
  bt.flatMap fun b => (carrier sin s fc).map fun x => fmul (if b then a1 else a0) x

/-- The bits of an ASK signal; the threshold is 0 whatever the amplitudes (44_passband.md R215). -/
def askDemodulate (sin : F64 → F64) (s fc : Nat) (xs : List F64) : List Bit :=
  (chunks s xs).map fun blk => fgt (corr blk (carrier sin s fc)) fPosZero

/-- ASK_MOD (44_passband.md R214). -/
def execAskMod (s : State) : Host.Outcome State Fault Refusal :=
  runCommand readBit writeSample
    (fun cfg bt =>
      if cfg.spb.toNat < 1 then .error .invalidConfig
      else .ok (askModulate Config.sin64 cfg.spb.toNat cfg.fc.toNat cfg.a0 cfg.a1 bt)) s

/-- ASK_DEM (44_passband.md R215). -/
def execAskDem (s : State) : Host.Outcome State Fault Refusal :=
  runCommand readSample writeBit
    (fun cfg xs =>
      if cfg.spb.toNat < 1 then .error .invalidConfig
      else .ok (askDemodulate Config.sin64 cfg.spb.toNat cfg.fc.toNat xs)) s

/-! ## FSK -/

/-- The samples of an FSK signal (44_passband.md R216). -/
def fskModulate (sin : F64 → F64) (s f0 f1 : Nat) (bt : List Bit) : List F64 :=
  bt.flatMap fun b => carrier sin s (if b then f1 else f0)

/-- The bits of an FSK signal; equal correlations give 0 (44_passband.md R217). -/
def fskDemodulate (sin : F64 → F64) (s f0 f1 : Nat) (xs : List F64) : List Bit :=
  (chunks s xs).map fun blk => fgt (corr blk (carrier sin s f1)) (corr blk (carrier sin s f0))

/-- FSK_MOD (44_passband.md R216). -/
def execFskMod (s : State) : Host.Outcome State Fault Refusal :=
  runCommand readBit writeSample
    (fun cfg bt =>
      if cfg.spb.toNat < 1 ∨ cfg.f0 = cfg.f1 then .error .invalidConfig
      else .ok (fskModulate Config.sin64 cfg.spb.toNat cfg.f0.toNat cfg.f1.toNat bt)) s

/-- FSK_DEM (44_passband.md R217). -/
def execFskDem (s : State) : Host.Outcome State Fault Refusal :=
  runCommand readSample writeBit
    (fun cfg xs =>
      if cfg.spb.toNat < 1 ∨ cfg.f0 = cfg.f1 then .error .invalidConfig
      else .ok (fskDemodulate Config.sin64 cfg.spb.toNat cfg.f0.toNat cfg.f1.toNat xs)) s

/-! ## QPSK -/

/-- The QPSK phase table, in degrees, by symbol value (10_state.md R39). -/
def qpskPhase : Nat → Nat
  | 0 => 45
  | 1 => 135
  | 2 => 315
  | _ => 225

/-- The s samples of a QPSK symbol (44_passband.md R219). -/
def qpskWave (sin : F64 → F64) (s fc symbol : Nat) : List F64 :=
  (List.range s).map fun j => sin (fadd (carrierArg s fc j) (phaseOf (qpskPhase symbol)))

/-- The symbol values of a padded bit sequence, g bits each, first bit most significant (44_passband.md R218, R221). -/
def symbols (g : Nat) (bt : List Bit) : List Nat := (chunks g (padBits g bt)).map bitsToNat

/-- The samples of a QPSK signal (44_passband.md R219). -/
def qpskModulate (sin : F64 → F64) (s fc : Nat) (bt : List Bit) : List F64 :=
  (symbols 2 bt).flatMap (qpskWave sin s fc)

/-- The candidate kept after comparing the correlation of symbol k: a strictly greater one replaces it
(44_passband.md R220). -/
def keepGreater (score : Nat → F64) (best : Nat × F64) (k : Nat) : Nat × F64 :=
  if fgt (score k) best.2 then (k, score k) else best

/-- The symbol of one QPSK block: the lowest among those of greatest correlation (44_passband.md R220). -/
def qpskDecide (sin : F64 → F64) (s fc : Nat) (blk : List F64) : Nat :=
  let score := fun k => corr blk (qpskWave sin s fc k)
  ([1, 2, 3].foldl (keepGreater score) (0, score 0)).1

/-- The bits of a QPSK signal (44_passband.md R220). -/
def qpskDemodulate (sin : F64 → F64) (s fc : Nat) (xs : List F64) : List Bit :=
  (chunks s xs).flatMap fun blk => [(qpskDecide sin s fc blk).testBit 1, (qpskDecide sin s fc blk).testBit 0]

/-- QPSK_MOD (44_passband.md R219). -/
def execQpskMod (s : State) : Host.Outcome State Fault Refusal :=
  runCommand readBit writeSample
    (fun cfg bt =>
      if cfg.spb.toNat < 1 then .error .invalidConfig
      else .ok (qpskModulate Config.sin64 cfg.spb.toNat cfg.fc.toNat bt)) s

/-- QPSK_DEM (44_passband.md R220). -/
def execQpskDem (s : State) : Host.Outcome State Fault Refusal :=
  runCommand readSample writeBit
    (fun cfg xs =>
      if cfg.spb.toNat < 1 then .error .invalidConfig
      else .ok (qpskDemodulate Config.sin64 cfg.spb.toNat cfg.fc.toNat xs)) s

/-! ## 16-QAM -/

/-- The Gray level map of two bits, as the number they form (10_state.md R40). -/
def grayLevel : Nat → Int
  | 0 => -3
  | 1 => -1
  | 3 => 1
  | _ => 3

/-- I of the 16-QAM table: the level of the first two bits of the symbol (10_state.md R40). -/
def qamI (symbol : Nat) : Int := grayLevel (symbol / 4)

/-- Q of the 16-QAM table: the level of the last two bits of the symbol (10_state.md R40). -/
def qamQ (symbol : Nat) : Int := grayLevel (symbol % 4)

/-- The s samples of a 16-QAM symbol (44_passband.md R222). -/
def qamWave (sin cos : F64 → F64) (s fc symbol : Nat) : List F64 :=
  (List.range s).map fun j =>
    fsub (fmul (f64Int (qamI symbol)) (cos (carrierArg s fc j)))
      (fmul (f64Int (qamQ symbol)) (sin (carrierArg s fc j)))

/-- The samples of a 16-QAM signal (44_passband.md R222). -/
def qamModulate (sin cos : F64 → F64) (s fc : Nat) (bt : List Bit) : List F64 :=
  (symbols 4 bt).flatMap (qamWave sin cos s fc)

/-- The squared distance of an estimate to the point of symbol k (44_passband.md R223). -/
def qamDistance (ie qe : F64) (k : Nat) : F64 :=
  fadd (fmul (fsub ie (f64Int (qamI k))) (fsub ie (f64Int (qamI k))))
    (fmul (fsub qe (f64Int (qamQ k))) (fsub qe (f64Int (qamQ k))))

/-- The candidate kept after comparing the distance of symbol k: a strictly smaller one replaces it
(44_passband.md R223). -/
def keepSmaller (score : Nat → F64) (best : Nat × F64) (k : Nat) : Nat × F64 :=
  if flt (score k) best.2 then (k, score k) else best

/-- The estimate of I (44_passband.md R223). -/
def qamEstimateI (cos : F64 → F64) (s fc : Nat) (blk : List F64) : F64 :=
  fmul (fdiv (f64 2) (f64 s)) (corr blk (carrier cos s fc))

/-- The estimate of Q, with the sign that undoes the waveform's minus (44_passband.md R223). -/
def qamEstimateQ (sin : F64 → F64) (s fc : Nat) (blk : List F64) : F64 :=
  negf (fmul (fdiv (f64 2) (f64 s)) (corr blk (carrier sin s fc)))

/-- The symbol nearest an estimate: the lowest among those of smallest distance (44_passband.md R223). -/
def qamNearest (ie qe : F64) : Nat :=
  ((List.range' 1 15).foldl (keepSmaller (qamDistance ie qe)) (0, qamDistance ie qe 0)).1

/-- The symbol of one 16-QAM block (44_passband.md R223). -/
def qamDecide (sin cos : F64 → F64) (s fc : Nat) (blk : List F64) : Nat :=
  qamNearest (qamEstimateI cos s fc blk) (qamEstimateQ sin s fc blk)

/-- The bits of a 16-QAM signal (44_passband.md R223). -/
def qamDemodulate (sin cos : F64 → F64) (s fc : Nat) (xs : List F64) : List Bit :=
  (chunks s xs).flatMap fun blk =>
    let best := qamDecide sin cos s fc blk
    [best.testBit 3, best.testBit 2, best.testBit 1, best.testBit 0]

/-- QAM16_MOD (44_passband.md R222). -/
def execQam16Mod (s : State) : Host.Outcome State Fault Refusal :=
  runCommand readBit writeSample
    (fun cfg bt =>
      if cfg.spb.toNat < 1 then .error .invalidConfig
      else .ok (qamModulate Config.sin64 Config.cos64 cfg.spb.toNat cfg.fc.toNat bt)) s

/-- QAM16_DEM (44_passband.md R223). -/
def execQam16Dem (s : State) : Host.Outcome State Fault Refusal :=
  runCommand readSample writeBit
    (fun cfg xs =>
      if cfg.spb.toNat < 1 then .error .invalidConfig
      else .ok (qamDemodulate Config.sin64 Config.cos64 cfg.spb.toNat cfg.fc.toNat xs)) s

/-! ## Unknown selector -/

/-- PB_UNKNOWN: ends with UnknownStrategy before any other check (44_passband.md R224; 60_exceptions.md R253). -/
def execPbUnknown (_variant : BitVec 4) (_dir : Dir) (s : State) : Host.Outcome State Fault Refusal :=
  .next (s.completeErr .unknownStrategy)

end Sys2Proof.Machine
end

