-- ==== Sys2Proof/Machine/Dispatch.lean ====
section
/-! DEFINITION. EXEC of each command: one arm per constructor of Instr (60_exceptions.md R252). -/

namespace Sys2Proof.Machine

def exec (i : Instr) (s : State) : Host.Outcome State Fault Refusal :=
  match i with
  | .b2bits => Sys2Proof.Machine.execB2bits s
  | .bits2b => Sys2Proof.Machine.execBits2b s
  | .frmNoneEnc => Sys2Proof.Machine.execFrmNoneEnc s
  | .frmNoneDec => Sys2Proof.Machine.execFrmNoneDec s
  | .frmLpEnc => Sys2Proof.Machine.execFrmLpEnc s
  | .frmLpDec => Sys2Proof.Machine.execFrmLpDec s
  | .frmBysEnc => Sys2Proof.Machine.execFrmBysEnc s
  | .frmBysDec => Sys2Proof.Machine.execFrmBysDec s
  | .frmBisEnc => Sys2Proof.Machine.execFrmBisEnc s
  | .frmBisDec => Sys2Proof.Machine.execFrmBisDec s
  | .frmPass variant dir => Sys2Proof.Machine.execFrmPass variant dir s
  | .ecNoneEnc => Sys2Proof.Machine.execEcNoneEnc s
  | .ecNoneDec => Sys2Proof.Machine.execEcNoneDec s
  | .parEnc => Sys2Proof.Machine.execParEnc s
  | .parChk => Sys2Proof.Machine.execParChk s
  | .csumEnc => Sys2Proof.Machine.execCsumEnc s
  | .csumChk => Sys2Proof.Machine.execCsumChk s
  | .crcGen => Sys2Proof.Machine.execCrcGen s
  | .crcChk => Sys2Proof.Machine.execCrcChk s
  | .hamEnc => Sys2Proof.Machine.execHamEnc s
  | .hamDec => Sys2Proof.Machine.execHamDec s
  | .ham84Enc => Sys2Proof.Machine.execHam84Enc s
  | .ham84Dec => Sys2Proof.Machine.execHam84Dec s
  | .ecPass variant dir => Sys2Proof.Machine.execEcPass variant dir s
  | .nrzEnc => Sys2Proof.Machine.execNrzEnc s
  | .nrzDec => Sys2Proof.Machine.execNrzDec s
  | .manEnc => Sys2Proof.Machine.execManEnc s
  | .manDec => Sys2Proof.Machine.execManDec s
  | .amiEnc => Sys2Proof.Machine.execAmiEnc s
  | .amiDec => Sys2Proof.Machine.execAmiDec s
  | .lcUnknown variant dir => Sys2Proof.Machine.execLcUnknown variant dir s
  | .askMod => Sys2Proof.Machine.execAskMod s
  | .askDem => Sys2Proof.Machine.execAskDem s
  | .fskMod => Sys2Proof.Machine.execFskMod s
  | .fskDem => Sys2Proof.Machine.execFskDem s
  | .qpskMod => Sys2Proof.Machine.execQpskMod s
  | .qpskDem => Sys2Proof.Machine.execQpskDem s
  | .qam16Mod => Sys2Proof.Machine.execQam16Mod s
  | .qam16Dem => Sys2Proof.Machine.execQam16Dem s
  | .pbUnknown variant dir => Sys2Proof.Machine.execPbUnknown variant dir s
  | .illegal word => Sys2Proof.Machine.execIllegal word s

end Sys2Proof.Machine
end

