-- ==== Sys2Proof/Machine/HostPort.lean ====
section
/-! DEFINITION. The host's accesses and operations (20_memory.md R50 to R55; 10_state.md R36; 30_encoding.md R86, R87;
70_reset_and_hazards.md R291). -/

namespace Sys2Proof.Machine

/-- A register access the block has no meaning for: not 64 bits wide, not at a multiple of 8, or above 0xFF
(10_state.md R36). -/
def badRegAccess (offset width : Nat) : Bool :=
  decide (width ≠ 64) || decide (offset % 8 ≠ 0) || decide (0xFF < offset)

/-- A value returned to the host. -/
def State.giveHost (s : State) (v : Word) : State := { s with reads := v :: s.reads }

/-- A register write. While BUSY every one of them, to any offset, is HostAccessWhileBusy (R291, log entry 9). -/
def hostRegWrite (offset width : Nat) (v : Word) (s : State) : Host.Outcome State Fault Refusal :=
  if s.isBusy then .fault .hostAccessWhileBusy
  else if badRegAccess offset width then .fault .badRegisterAccess
  else .next (s.writeReg v (regAt offset))

/-- A register read, allowed while BUSY and without side effect (R291; 20_memory.md R63). -/
def hostRegRead (offset width : Nat) (s : State) : Host.Outcome State Fault Refusal :=
  if badRegAccess offset width then .fault .badRegisterAccess
  else .next (s.giveHost (s.readReg (regAt offset)))

/-- HostWrite(IN, i, v) (20_memory.md R52). -/
def hostInWrite (i : Nat) (v : Word) (s : State) : Host.Outcome State Fault Refusal :=
  if s.isBusy then .fault .hostAccessWhileBusy
  else if s.inCap ≤ i then .fault .badBufferAccess
  else .next { s with inBuf := memWrite s.inBuf i v }

/-- The value a host read of a buffer gets, or its fault (20_memory.md R53, R55). -/
def hostBufRead (cap : Nat) (m : Memory) (i : Nat) (s : State) : Except Fault Word :=
  if s.isBusy then .error .hostAccessWhileBusy
  else if cap ≤ i then .error .badBufferAccess
  else
    match memRead m i with
    | none => .error .unwrittenRead
    | some v => .ok v

/-- HostRead(IN, i) (20_memory.md R53). -/
def hostInRead (i : Nat) (s : State) : Host.Outcome State Fault Refusal :=
  match hostBufRead s.inCap s.inBuf i s with
  | .error f => .fault f
  | .ok v => .next (s.giveHost v)

/-- HostRead(OUT, i) (20_memory.md R55). -/
def hostOutRead (i : Nat) (s : State) : Host.Outcome State Fault Refusal :=
  match hostBufRead s.outCap s.outBuf i s with
  | .error f => .fault f
  | .ok v => .next (s.giveHost v)

/-- A host write to OUT, always a fault (20_memory.md R54; R291 while BUSY). -/
def hostOutWrite (_i : Nat) (_v : Word) (s : State) : Host.Outcome State Fault Refusal :=
  if s.isBusy then .fault .hostAccessWhileBusy else .fault .badBufferAccess

/-- Operations put before the rest of the host's script. -/
def State.pushOps (s : State) (ops : List HostOp) : State := { s with script := ops ++ s.script }

/-- WAIT: one RD STATUS, and again while BUSY = 1 (30_encoding.md R87). -/
def hostWait (s : State) : Host.Outcome State Fault Refusal :=
  if s.statusWord.getLsbD 0 then .next ((s.giveHost s.statusWord).pushOps [.wait])
  else .next (s.giveHost s.statusWord)

/-- CHAIN: RD OUT_LEN giving n; then the n copies and WR IN_LEN, n follow (30_encoding.md R87). -/
def hostChain (s : State) : Host.Outcome State Fault Refusal :=
  .next ((s.giveHost (s.readReg .outLen)).pushOps
    ((List.range s.outLen.toNat).map HostOp.copy ++ [.regWrite 0x18 64 (s.readReg .outLen)]))

/-- The RDO i of CHAIN, giving v; WRI i, v follows (30_encoding.md R87). -/
def hostCopy (i : Nat) (s : State) : Host.Outcome State Fault Refusal :=
  match hostBufRead s.outCap s.outBuf i s with
  | .error f => .fault f
  | .ok v => .next ((s.giveHost v).pushOps [.inWrite i v])

/-- One host operation (30_encoding.md R86, R87). -/
def hostOp (op : HostOp) (s : State) : Host.Outcome State Fault Refusal :=
  match op with
  | .regWrite offset width v => hostRegWrite offset width v s
  | .regRead offset width => hostRegRead offset width s
  | .inWrite i v => hostInWrite i v s
  | .inRead i => hostInRead i s
  | .outWrite i v => hostOutWrite i v s
  | .outRead i => hostOutRead i s
  | .wait => hostWait s
  | .chain => hostChain s
  | .copy i => hostCopy i s

/-- `RUN <mnemonic>` for the mnemonic's command word (30_encoding.md R87). -/
def opsRun (w : CmdWord) : List HostOp := [.regWrite 0x00 64 (w.setWidth 64), .regWrite 0x08 64 1#64, .wait]

/-- `LOAD [v0, v1, …]` (30_encoding.md R87). -/
def opsLoad (vs : List Word) : List HostOp :=
  (memOfList vs).map (fun c => HostOp.inWrite c.1 c.2) ++ [.regWrite 0x18 64 (BitVec.ofNat 64 vs.length)]

/-- `RESET` (30_encoding.md R87). -/
def opsReset : List HostOp := [.regWrite 0x08 64 2#64]

/-! ## Whose turn it is -/

/-- The fetch: the command word the engine runs in this step, if EXEC is what happens. A BUSY engine takes EXEC when no
host step is left to wait for (60_exceptions.md R252; log entry 4). -/
def engineTurn (s : State) : Option CmdWord :=
  match s.engine with
  | .idle => none
  | .busy l 0 => some l.cmd
  | .busy l (_ + 1) => if s.script.isEmpty then some l.cmd else none

/-- One host step less to wait for. -/
def Engine.tick : Engine → Engine
  | .idle => .idle
  | .busy l wait => .busy l (wait - 1)

/-- The state as the next host operation finds it: one host step less to wait for, the operation taken off the script. -/
def State.takeOp (s : State) (rest : List HostOp) : State := { s with script := rest, engine := s.engine.tick }

/-- The host's turn: its next operation, or nothing at all when it has none (70_reset_and_hazards.md R281,
log entry 6). -/
def hostTurn (s : State) : Host.Outcome State Fault Refusal :=
  match s.script with
  | [] => .next s
  | op :: rest => hostOp op (s.takeOp rest)

/-- A command word placed where the engine takes it in the very next step: CMD holds it and a START has just latched it
with no host step to wait for (log entry 13). -/
def State.placeCommand (s : State) (w : CmdWord) : State := State.latch { s with cmd := w } 0

end Sys2Proof.Machine
end

