-- ==== Sys2Proof/Machine/Step.lean ====
section
/-! DEFINITION. One step: EXEC of the latched command when it is the engine's turn, else the host's next operation
(60_exceptions.md R252; 20_memory.md R65). -/

namespace Sys2Proof.Machine

/-- One step of the block and its host. -/
def step (s : State) : Host.Outcome State Fault Refusal :=
  match engineTurn s with
  | some w => exec (decode w) s
  | none => hostTurn s

/-- The instruction stored where the next step takes its command from (log entry 13). A command word has 16 bits. -/
def State.withFetchWord (s : State) (nbits w : Nat) : State :=
  s.placeCommand (BitVec.ofNat 16 (w % 2 ^ nbits))

end Sys2Proof.Machine
end

