-- ==== Sys2Proof/Safety.lean ====
section
/-! DEFINITION. What holds of the block in every state it can reach, and the terms claims are stated in: the input a
command reads, and the state a command leaves (10_state.md; 60_exceptions.md R255). -/

namespace Sys2Proof.Machine

/-- The legal combinations of BUSY, DONE and ERR, and of ERR and ERRCODE (10_state.md R25; 60_exceptions.md R257). -/
structure State.StatusLegal (s : State) : Prop where
  combination : (s.isBusy, s.done, s.err) ∈
    [(false, false, false), (true, false, false), (false, true, false), (false, true, true)]
  noError : s.err = false → s.errCode = 0#4
  someError : s.err = true → 1 ≤ s.errCode.toNat ∧ s.errCode.toNat ≤ 12

/-- What every step keeps (00_scope.md R5; 10_state.md R25, R27, R37, R38, R43; 20_memory.md R55). -/
structure State.Inv (s : State) : Prop where
  inCapLegal : 1 ≤ s.inCap ∧ s.inCap < 2 ^ 32
  outCapLegal : 1 ≤ s.outCap ∧ s.outCap < 2 ^ 32
  inCanonical : s.inBuf.wf
  outCanonical : s.outBuf.wf
  inWithin : ∀ c ∈ s.inBuf, c.1 < s.inCap
  outMarks : ∀ i, (memRead s.outBuf i).isSome = true ↔ i < s.outLen.toNat
  outFits : s.outLen.toNat ≤ s.outCap
  status : s.StatusLegal
  errorLeavesNothing : s.err = true → s.outLen = 0#32
  latchedCurrent : ∀ l wait, s.engine = .busy l wait → l = s.snapshot

/-- The elements a command started in this state reads are exactly `es`: IN_LEN of them, not more than IN_CAP, all
written (60_exceptions.md R253 steps 3 and 4). -/
structure State.HasInput (s : State) (es : List Word) : Prop where
  length : s.operands.inLen.toNat = es.length
  fits : es.length ≤ s.inCap
  written : ∀ j v, es[j]? = some v → memRead s.operands.input j = some v

/-- The state after a command that gives the elements `out`, every field written out (60_exceptions.md R255). -/
def State.finishedWith (s : State) (out : List Word) : State where
  cmd := s.cmd
  done := true
  err := false
  errCode := 0#4
  inLen := s.inLen
  outLen := BitVec.ofNat 32 out.length
  inCap := s.inCap
  outCap := s.outCap
  cfg := s.cfg
  inBuf := s.inBuf
  outBuf := memOfList out
  engine := .idle
  starts := s.starts
  script := s.script
  reads := s.reads

/-- The state after a command that ends with an error code, every field written out (60_exceptions.md R255). -/
def State.endedWith (s : State) (code : BitVec 4) : State where
  cmd := s.cmd
  done := true
  err := true
  errCode := code
  inLen := s.inLen
  outLen := 0#32
  inCap := s.inCap
  outCap := s.outCap
  cfg := s.cfg
  inBuf := s.inBuf
  outBuf := []
  engine := .idle
  starts := s.starts
  script := s.script
  reads := s.reads

/-- The command's input, read as kind byte (20_memory.md R58), is `bs`. -/
def State.HasBytes (s : State) (bs : List Byte) : Prop :=
  ∃ es, s.HasInput es ∧ es.map (fun e => e.extractLsb' 0 8) = bs

/-- The command's input, read as kind bit (20_memory.md R58), is `bt`. -/
def State.HasBits (s : State) (bt : List Bit) : Prop := ∃ es, s.HasInput es ∧ es.map (fun e => e.getLsbD 0) = bt

/-- The command's input, read as kind sample (20_memory.md R58), is `xs`. -/
def State.HasSamples (s : State) (xs : List F64) : Prop := s.HasInput xs

/-- `finishedWith` for an output of kind byte: zext_64 of each byte (20_memory.md R58). -/
def State.finishedBytes (s : State) (out : List Byte) : State := s.finishedWith (out.map fun b => b.setWidth 64)

/-- `finishedWith` for an output of kind bit: zext_64 of each bit (20_memory.md R58). -/
def State.finishedBits (s : State) (out : List Bit) : State :=
  s.finishedWith (out.map fun b => if b then 1#64 else 0#64)

/-- `finishedWith` for an output of kind sample: its bit patterns (20_memory.md R58). -/
def State.finishedSamples (s : State) (out : List F64) : State := s.finishedWith out

end Sys2Proof.Machine

namespace Sys2Proof.Laws

open Sys2Proof.Machine

/-- A body of a byte-stuffed frame and the payload it stands for: an ESC makes the next byte literal, any other byte
stands for itself (41_framing.md R121). -/
inductive EscapedBody : List Byte → List Byte → Prop where
  | empty : EscapedBody [] []
  | literal (b : Byte) (body out : List Byte) : b ≠ 0x7D#8 → EscapedBody body out → EscapedBody (b :: body) (b :: out)
  | escaped (c : Byte) (body out : List Byte) : EscapedBody body out → EscapedBody (0x7D#8 :: c :: body) (c :: out)

/-- The product of the polynomials over GF(2) that a (its lowest n bits) and b stand for. -/
def clMul : Nat → Nat → Nat → Nat
  | 0, _, _ => 0
  | n + 1, a, b => (if a.testBit n then b <<< n else 0) ^^^ clMul n a b

/-- The one's-complement sum of bytes, in closed form: every carry out of eight bits comes back as 1, so the byte total
is reduced modulo 255, and only the total 0 gives 0 (42_error_control.md R145). -/
def onesComplementSum (bs : List Byte) : Nat :=
  let total := (bs.map (·.toNat)).sum
  if total = 0 then 0 else (total - 1) % 255 + 1

/-- Five 1 bits in a row stand somewhere in the bits (41_framing.md R124). -/
def HasRunOfFive (bt : List Bit) : Prop := List.replicate 5 true <:+: bt

/-- The positions, from 1 to n, that hold data bits: those that are not powers of two (42_error_control.md R158). -/
def dataPositions (n : Nat) : List Nat := (List.range' 1 n).filter fun q => decide (2 ^ Nat.log2 q ≠ q)

/-- The XOR of the positions, from 1, at which a block holds a 1 (42_error_control.md R161). -/
def positionsXor (c : List Bit) : Nat :=
  (List.range' 1 c.length).foldl (fun acc q => if c.getD (q - 1) false then acc ^^^ q else acc) 0

/-- A binary64 pattern that is neither a NaN nor an infinity: its exponent field, bits [62:52], is not all ones. -/
def Finite (x : F64) : Prop := x.toNat / 2 ^ 52 % 2048 ≠ 2047

/-- x is the binary64 value of p / q (q > 0), in units of 2^-1074, rounded to nearest, ties to even: the infinity of the
sign of p from half a unit past the largest finite value on, and otherwise a finite value no finite value is nearer
than, its last bit 0 where another is as near (00_scope.md R10). -/
def RoundsTo (x : F64) (p : Int) (q : Nat) : Prop :=
  if (2 ^ 54 - 1) * 2 ^ 2044 * q ≤ p.natAbs then
    x = if p < 0 then 0xFFF0000000000000#64 else 0x7FF0000000000000#64
  else
    Finite x ∧ ∀ y : F64, Finite y →
      (fval x * q - p).natAbs ≤ (fval y * q - p).natAbs
        ∧ (fval y ≠ fval x → (fval x * q - p).natAbs = (fval y * q - p).natAbs → x.getLsbD 0 = false)

end Sys2Proof.Laws
end

