-- ==== Sys2Proof/Certificates/Slice0/Obligations.lean ====
section
/-! DEFINITION. The statements for the provers. Each follows a rule of spec/ named in its docstring; a statement about a
command holds in every state whose input is there, whatever the other fields. -/

open Sys2Proof Sys2Proof.Machine Sys2Proof.Laws

/-! ## Encoding -/

/-- Decode and encode agree on every well-formed command, with every VARIANT, DIR and illegal word (R80, R81). -/
def Obligations.DecodeOfEncodeIsTheCommand : Prop :=
  ∀ i : Instr, i.wellFormed = true → decode (encode i) = i

/-- Every command word decodes to a well-formed command that encodes to it (R80, R81): no two words share a meaning's
term, and no bit is dropped. -/
def Obligations.EncodeOfDecodeIsTheWord : Prop :=
  ∀ w : CmdWord, (decode w).wellFormed = true ∧ encode (decode w) = w

/-- One word of each family, its fields FAMILY VARIANT RSVD DIR written out in bits (R71), decodes to its row of R80. -/
def Obligations.WordsOfEachFamilyDecodeToTheirRow : Prop :=
  decode 0b0000000000000001#16 = .bits2b ∧ decode 0b0001001000000000#16 = .frmBysEnc
    ∧ decode 0b0001111100000001#16 = .frmPass 15#4 .receive ∧ decode 0b0010001100000001#16 = .crcChk
    ∧ decode 0b0010011000000000#16 = .ecPass 6#4 .transmit ∧ decode 0b0011001000000001#16 = .amiDec
    ∧ decode 0b0100001100000000#16 = .qam16Mod ∧ decode 0b0100010000000000#16 = .pbUnknown 4#4 .transmit
    ∧ decode 0b0001000100000010#16 = .illegal 0b0001000100000010#16

/-- IllegalCommand (R261): a word with RSVD ≠ 0, with FAMILY 5 to 15, or with FAMILY 0 and VARIANT ≠ 0 ends with error
code 12 in every state, whatever IN_LEN and IN hold. -/
def Obligations.IllegalWordsEndWithIllegalCommand : Prop :=
  ∀ (w : CmdWord) (s : State),
    (w.toNat / 2 % 128 ≠ 0 ∨ 5 ≤ w.toNat / 4096 ∨ (w.toNat / 4096 = 0 ∧ w.toNat / 256 % 16 ≠ 0)) →
      decode w = .illegal w ∧ exec (.illegal w) s = .next (s.endedWith 12#4)

/-! ## Command lifecycle -/

/-- EXEC (R252): a BUSY engine with no host step left to wait for, or a host with none to take, runs the latched
command. How many host steps there are to wait for is the model's choice (log entry 4). The second clause, a word that
withFetchWord latches with no host step to wait for, is the model's choice too (log entry 13). -/
def Obligations.StepRunsTheLatchedCommand : Prop :=
  (∀ (s : State) (l : Latched) (wait : Nat), s.engine = .busy l wait → (wait = 0 ∨ s.script = []) →
      step s = exec (decode l.cmd) s)
    ∧ ∀ (s : State) (w : Nat), w < 65536 →
        step (s.withFetchWord 16 w) = exec (decode (BitVec.ofNat 16 w)) (s.withFetchWord 16 w)

/-- START (R251), as a step of an IDLE block: CMD, CFG_*, IN_LEN (and IN, R43) are latched, STATUS becomes BUSY alone,
and every other field stays. The number of host steps before EXEC is free (log entry 4). -/
def Obligations.StartLatchesTheCommand : Prop :=
  ∀ (s : State) (v : Word) (rest : List HostOp), s.engine = .idle → s.script = .regWrite 0x08 64 v :: rest →
    v.getLsbD 0 = true → v.getLsbD 1 = false →
      ∃ (l : Latched) (wait : Nat),
        step s = .next { s with engine := .busy l wait, done := false, err := false, errCode := 0#4,
                                starts := s.starts + 1, script := rest }
          ∧ l.cmd = s.cmd ∧ l.cfg = s.cfg ∧ l.inLen = s.inLen
          ∧ ∀ i, memRead l.input i = if i < s.inLen.toNat then memRead s.inBuf i else none

/-- Completion (R255): the engine is IDLE again and DONE is set; after an error nothing is left in OUT and OUT_LEN is 0;
after a result exactly OUT[0] to OUT[OUT_LEN - 1] are written. CMD, IN_LEN, CFG_*, IN and CAPS never change. After a
result `out` (the state `finishedWith out`) OUT_LEN is its length and OUT[j] reads as its element j, for the host too.
-/
def Obligations.CompletionLeavesAResultOrACleanError : Prop :=
  (∀ (i : Instr) (s t : State), s.outCap < 2 ^ 32 → exec i s = .next t →
    t.engine = .idle ∧ t.done = true
      ∧ (t.err = true → t.outLen = 0#32 ∧ 1 ≤ t.errCode.toNat ∧ t.errCode.toNat ≤ 12 ∧ ∀ j, memRead t.outBuf j = none)
      ∧ (t.err = false → t.errCode = 0#4 ∧ t.outLen.toNat ≤ s.outCap
          ∧ ∀ j, (memRead t.outBuf j).isSome = true ↔ j < t.outLen.toNat)
      ∧ t.cmd = s.cmd ∧ t.inLen = s.inLen ∧ t.cfg = s.cfg ∧ t.inCap = s.inCap ∧ t.outCap = s.outCap
      ∧ (∀ j, memRead t.inBuf j = memRead s.inBuf j)
      ∧ t.starts = s.starts ∧ t.script = s.script ∧ t.reads = s.reads)
    ∧ ∀ (s : State) (out : List Word), out.length ≤ s.outCap → s.outCap < 2 ^ 32 →
        let t := s.finishedWith out
        t.outLen.toNat = out.length ∧ (∀ j, memRead t.outBuf j = out[j]?)
          ∧ ∀ j v, out[j]? = some v → hostOp (.outRead j) t = .next { t with reads := v :: t.reads }

/-- The checks before a command's rule (R253 steps 3 and 4): of every command but LC_UNKNOWN, PB_UNKNOWN and ILLEGAL, an
IN_LEN above IN_CAP ends it with BufferOverflow (R254), and an unwritten element among the first IN_LEN is the fault
UnwrittenRead (R56). -/
def Obligations.InputIsCheckedBeforeTheRule : Prop :=
  ∀ (i : Instr) (s : State), (∀ v d, i ≠ .lcUnknown v d) → (∀ v d, i ≠ .pbUnknown v d) → (∀ w, i ≠ .illegal w) →
    (s.inCap < s.operands.inLen.toNat → exec i s = .next (s.endedWith 11#4))
      ∧ (s.operands.inLen.toNat ≤ s.inCap →
          (∃ j < s.operands.inLen.toNat, memRead s.operands.input j = none) → exec i s = .fault .unwrittenRead)

/-- The model faults (R262): a step faults only in the situations the table lists, and no step is refused. -/
def Obligations.StepFaultsOnlyAsTheTableLists : Prop :=
  ∀ s : State, (∀ r, step s ≠ .refused r)
    ∧ ∀ f, step s = .fault f →
      (f = .unwrittenRead ∧ ∃ l wait, s.engine = .busy l wait
          ∧ ∃ j < l.inLen.toNat, memRead l.input j = none)
      ∨ ∃ op rest, s.script = op :: rest ∧
        ((f = .badRegisterAccess ∧ ∃ offset width, ((∃ v, op = .regWrite offset width v) ∨ op = .regRead offset width)
            ∧ (width ≠ 64 ∨ offset % 8 ≠ 0 ∨ 0xFF < offset))
        ∨ (f = .badBufferAccess ∧ s.engine = .idle
            ∧ ((∃ i v, op = .outWrite i v) ∨ (∃ i v, op = .inWrite i v ∧ s.inCap ≤ i) ∨ (∃ i, op = .inRead i ∧ s.inCap ≤ i)
              ∨ ∃ i, (op = .outRead i ∨ op = .copy i) ∧ s.outCap ≤ i))
        ∨ (f = .unwrittenRead ∧ s.engine = .idle
            ∧ ((∃ i, op = .inRead i ∧ memRead s.inBuf i = none)
              ∨ ∃ i, (op = .outRead i ∨ op = .copy i) ∧ memRead s.outBuf i = none))
        ∨ (f = .hostAccessWhileBusy ∧ (∃ l wait, s.engine = .busy l wait)
            ∧ ((∃ o w v, op = .regWrite o w v) ∨ (∃ i v, op = .inWrite i v) ∨ (∃ i v, op = .outWrite i v)
              ∨ ∃ i, op = .inRead i ∨ op = .outRead i ∨ op = .copy i)))

/-! ## Reset, registers, buffers and the host -/

/-- The reset state (R46): every register as it reads, every element of IN and OUT unwritten, the engine IDLE, CAPS the
capacities (integers from 1 to 2^32 - 1, R5), and the two read-only tables at the contents of R39 and R40. -/
def Obligations.ResetIsTheTableOfResetValues : Prop :=
  let r := State.reset
  r.readReg .cmd = 0#64 ∧ r.readReg .ctrl = 0#64 ∧ r.readReg .status = 0#64 ∧ r.readReg .inLen = 0#64
    ∧ r.readReg .outLen = 0#64 ∧ r.readReg .cfgSpb = 50#64 ∧ r.readReg .cfgCrcWidth = 32#64
    ∧ r.readReg .cfgCrcPoly = 0x04C11DB7#64 ∧ r.readReg .cfgHamK = 4#64 ∧ r.readReg .cfgFc = 1#64
    ∧ r.readReg .cfgF0 = 1#64 ∧ r.readReg .cfgF1 = 2#64 ∧ r.readReg .cfgA0 = 0#64
    ∧ r.readReg .cfgA1 = 0x3FF0000000000000#64
    ∧ r.cfg = ⟨50#32, 32#6, 0x04C11DB7#32, 4#8, 1#32, 1#32, 2#32, 0#64, 0x3FF0000000000000#64⟩
    ∧ (r.readReg .caps).toNat = Config.outCap * 2 ^ 32 + Config.inCap
    ∧ 1 ≤ Config.inCap ∧ Config.inCap < 2 ^ 32 ∧ 1 ≤ Config.outCap ∧ Config.outCap < 2 ^ 32
    ∧ (∀ i, memRead r.inBuf i = none) ∧ (∀ i, memRead r.outBuf i = none) ∧ r.engine = .idle
    ∧ (List.range 4).map qpskPhase = [45, 135, 315, 225]
    ∧ (List.range 16).map qamI = [-3, -3, -3, -3, -1, -1, -1, -1, 3, 3, 3, 3, 1, 1, 1, 1]
    ∧ (List.range 16).map qamQ = [-3, -1, 3, 1, -3, -1, 3, 1, -3, -1, 3, 1, -3, -1, 3, 1]

/-- The invariant holds right after reset. -/
def Obligations.ResetHasTheInvariant : Prop := State.reset.Inv

/-- Every step keeps the invariant: the capacities legal (R5), the buffers canonical and inside them (R37, R38), OUT
written exactly below OUT_LEN (R55), STATUS a legal combination (R25), and the latched copy equal to the registers and
to IN while BUSY (R43). -/
def Obligations.EveryStepKeepsTheInvariant : Prop :=
  ∀ s t : State, s.Inv → step s = .next t → t.Inv

/-- A write of a read/write register by an IDLE block's host (R23, R26, R29 to R35): each offset of
the register map (R22) stores the register's bits in its own field of the state and changes no other; the stored bits
read back at the same offset, the reserved bits read 0, and no other register or buffer changes. -/
def Obligations.RegisterWritesReadBackMasked : Prop :=
  (∀ (s : State) (v : Word), s.engine = .idle →
    hostOp (.regWrite 0x00 64 v) s = .next { s with cmd := v.setWidth 16 }
      ∧ hostOp (.regWrite 0x18 64 v) s = .next { s with inLen := v.setWidth 32 }
      ∧ hostOp (.regWrite 0x30 64 v) s = .next { s with cfg := { s.cfg with spb := v.setWidth 32 } }
      ∧ hostOp (.regWrite 0x38 64 v) s = .next { s with cfg := { s.cfg with crcWidth := v.setWidth 6 } }
      ∧ hostOp (.regWrite 0x40 64 v) s = .next { s with cfg := { s.cfg with crcPoly := v.setWidth 32 } }
      ∧ hostOp (.regWrite 0x48 64 v) s = .next { s with cfg := { s.cfg with hamK := v.setWidth 8 } }
      ∧ hostOp (.regWrite 0x50 64 v) s = .next { s with cfg := { s.cfg with fc := v.setWidth 32 } }
      ∧ hostOp (.regWrite 0x58 64 v) s = .next { s with cfg := { s.cfg with f0 := v.setWidth 32 } }
      ∧ hostOp (.regWrite 0x60 64 v) s = .next { s with cfg := { s.cfg with f1 := v.setWidth 32 } }
      ∧ hostOp (.regWrite 0x68 64 v) s = .next { s with cfg := { s.cfg with a0 := v } }
      ∧ hostOp (.regWrite 0x70 64 v) s = .next { s with cfg := { s.cfg with a1 := v } })
    ∧ ∀ (s : State) (v : Word) (offset : Nat) (mask : Word), s.engine = .idle →
    (offset, mask) ∈ [(0x00, 0xFFFF#64), (0x18, 0xFFFFFFFF#64), (0x30, 0xFFFFFFFF#64), (0x38, 0x3F#64),
      (0x40, 0xFFFFFFFF#64), (0x48, 0xFF#64), (0x50, 0xFFFFFFFF#64), (0x58, 0xFFFFFFFF#64), (0x60, 0xFFFFFFFF#64),
      (0x68, 0xFFFFFFFFFFFFFFFF#64), (0x70, 0xFFFFFFFFFFFFFFFF#64)] →
      ∃ t : State, hostOp (.regWrite offset 64 v) s = .next t ∧ t.readReg (regAt offset) = v &&& mask
        ∧ (∀ r, r ≠ regAt offset → t.readReg r = s.readReg r)
        ∧ t.engine = s.engine ∧ (∀ i, memRead t.inBuf i = memRead s.inBuf i)
        ∧ (∀ i, memRead t.outBuf i = memRead s.outBuf i) ∧ t.script = s.script ∧ t.reads = s.reads

/-- Reserved offsets and bad register accesses (R36): offsets 0x78 to 0xF8 read 0 and ignore writes; an offset that is
not a multiple of 8, above 0xFF, or a width other than 64 bits is BadRegisterAccess. Reads do so in every state (while
BUSY by the model's choice, log entry 9), writes in an IDLE block (while BUSY every write is R291's fault). -/
def Obligations.ReservedOffsetsAndBadRegisterAccesses : Prop :=
  ∀ (s : State) (offset width : Nat) (v : Word),
    (0x78 ≤ offset → offset ≤ 0xF8 → offset % 8 = 0 →
      hostOp (.regRead offset 64) s = .next { s with reads := 0#64 :: s.reads }
        ∧ (s.engine = .idle → hostOp (.regWrite offset 64 v) s = .next s))
      ∧ ((offset % 8 ≠ 0 ∨ 0xFF < offset ∨ width ≠ 64) →
          hostOp (.regRead offset width) s = .fault .badRegisterAccess
            ∧ (s.engine = .idle → hostOp (.regWrite offset width v) s = .fault .badRegisterAccess))

/-- Reads, and the writes that have no effect (R22, R24, R25, R27, R28, R63). A read of each offset of the register map,
in any state, gives the value of the field that stands there, reserved bits 0, and changes nothing of the block. In an
IDLE block a write of the read-only registers STATUS (0x10), OUT_LEN (0x20) and CAPS (0x28), and one of CTRL (0x08)
with neither strobe set, has no effect. -/
def Obligations.ReadOnlyWritesAndReadsHaveNoEffect : Prop :=
  (∀ (s : State) (offset : Nat) (r : Reg) (value : Word),
    (offset, r, value) ∈ ([(0x00, .cmd, s.cmd.setWidth 64), (0x08, .ctrl, 0#64),
        (0x10, .status, BitVec.ofNat 64 ((decide (s.engine ≠ .idle)).toNat + 2 * s.done.toNat + 4 * s.err.toNat
          + 16 * s.errCode.toNat)),
        (0x18, .inLen, s.inLen.setWidth 64), (0x20, .outLen, s.outLen.setWidth 64),
        (0x28, .caps, BitVec.ofNat 64 (s.outCap % 2 ^ 32 * 2 ^ 32 + s.inCap % 2 ^ 32)),
        (0x30, .cfgSpb, s.cfg.spb.setWidth 64), (0x38, .cfgCrcWidth, s.cfg.crcWidth.setWidth 64),
        (0x40, .cfgCrcPoly, s.cfg.crcPoly.setWidth 64), (0x48, .cfgHamK, s.cfg.hamK.setWidth 64),
        (0x50, .cfgFc, s.cfg.fc.setWidth 64), (0x58, .cfgF0, s.cfg.f0.setWidth 64),
        (0x60, .cfgF1, s.cfg.f1.setWidth 64), (0x68, .cfgA0, s.cfg.a0),
        (0x70, .cfgA1, s.cfg.a1)] : List (Nat × Reg × Word)) →
      regAt offset = r ∧ s.readReg r = value
        ∧ hostOp (.regRead offset 64) s = .next { s with reads := value :: s.reads })
    ∧ ∀ (s : State) (v : Word), s.engine = .idle →
      (∀ offset ∈ [0x10, 0x20, 0x28], hostOp (.regWrite offset 64 v) s = .next s)
        ∧ (v.getLsbD 0 = false → v.getLsbD 1 = false → hostOp (.regWrite 0x08 64 v) s = .next s)
        ∧ ∀ offset, offset % 8 = 0 → offset ≤ 0xFF →
            hostOp (.regRead offset 64) s = .next { s with reads := s.readReg (regAt offset) :: s.reads }

/-- Host access while BUSY (R291): every register write and every access to IN or OUT is HostAccessWhileBusy; every
register read is allowed; STATUS reads BUSY alone, CTRL reads 0, and CMD, IN_LEN and CFG_* read the latched copy. -/
def Obligations.HostAccessWhileBusy : Prop :=
  ∀ (s : State) (l : Latched) (wait : Nat), s.Inv → s.engine = .busy l wait →
    (∀ offset width v, hostOp (.regWrite offset width v) s = .fault .hostAccessWhileBusy)
      ∧ (∀ i v, hostOp (.inWrite i v) s = .fault .hostAccessWhileBusy
          ∧ hostOp (.outWrite i v) s = .fault .hostAccessWhileBusy
          ∧ hostOp (.inRead i) s = .fault .hostAccessWhileBusy ∧ hostOp (.outRead i) s = .fault .hostAccessWhileBusy)
      ∧ (∀ offset, offset % 8 = 0 → offset ≤ 0xFF →
          hostOp (.regRead offset 64) s = .next { s with reads := s.readReg (regAt offset) :: s.reads })
      ∧ s.readReg .status = 1#64 ∧ s.readReg .ctrl = 0#64 ∧ s.readReg .outLen = s.outLen.setWidth 64
      ∧ s.readReg .caps = BitVec.ofNat 32 s.outCap ++ BitVec.ofNat 32 s.inCap
      ∧ s.readReg .cmd = l.cmd.setWidth 64 ∧ s.readReg .inLen = l.inLen.setWidth 64
      ∧ s.readReg .cfgSpb = l.cfg.spb.setWidth 64 ∧ s.readReg .cfgCrcWidth = l.cfg.crcWidth.setWidth 64
      ∧ s.readReg .cfgCrcPoly = l.cfg.crcPoly.setWidth 64 ∧ s.readReg .cfgHamK = l.cfg.hamK.setWidth 64
      ∧ s.readReg .cfgFc = l.cfg.fc.setWidth 64 ∧ s.readReg .cfgF0 = l.cfg.f0.setWidth 64
      ∧ s.readReg .cfgF1 = l.cfg.f1.setWidth 64 ∧ s.readReg .cfgA0 = l.cfg.a0 ∧ s.readReg .cfgA1 = l.cfg.a1

/-- SOFT_RESET (R283): a write of CTRL with bit 1 set, whatever bit 0, puts an IDLE block in the reset state; CAPS is
hardwired and keeps its value (R28); while BUSY it is HostAccessWhileBusy. That the capacities and the host's own
`script` and `reads` stay is the model's choice (log entry 17). -/
def Obligations.SoftResetIsPowerOnReset : Prop :=
  ∀ (s : State) (v : Word), v.getLsbD 1 = true →
    (s.engine = .idle → ∃ t : State, hostOp (.regWrite 0x08 64 v) s = .next t
      ∧ (∀ r, r ≠ .caps → t.readReg r = State.reset.readReg r) ∧ t.readReg .caps = s.readReg .caps
      ∧ (∀ i, memRead t.inBuf i = none) ∧ (∀ i, memRead t.outBuf i = none) ∧ t.engine = .idle
      ∧ t.script = s.script ∧ t.reads = s.reads)
      ∧ ∀ l wait, s.engine = .busy l wait → hostOp (.regWrite 0x08 64 v) s = .fault .hostAccessWhileBusy

/-- Host access to IN (R52, R53): a write stores the element and changes no other, a read of a written element gives it
and changes nothing, an unwritten one is UnwrittenRead, an index at or above IN_CAP is BadBufferAccess, and while BUSY
every access is HostAccessWhileBusy. -/
def Obligations.HostAccessToTheInputBuffer : Prop :=
  ∀ (s : State) (i : Nat) (v : Word),
    (s.engine = .idle → i < s.inCap →
      (∃ m : Memory, hostOp (.inWrite i v) s = .next { s with inBuf := m } ∧ memRead m i = some v
        ∧ (∀ j, j ≠ i → memRead m j = memRead s.inBuf j) ∧ (s.inBuf.wf → m.wf))
      ∧ (∀ u, memRead s.inBuf i = some u → hostOp (.inRead i) s = .next { s with reads := u :: s.reads })
      ∧ (memRead s.inBuf i = none → hostOp (.inRead i) s = .fault .unwrittenRead))
      ∧ (s.engine = .idle → s.inCap ≤ i →
          hostOp (.inWrite i v) s = .fault .badBufferAccess ∧ hostOp (.inRead i) s = .fault .badBufferAccess)
      ∧ ∀ l wait, s.engine = .busy l wait →
          hostOp (.inWrite i v) s = .fault .hostAccessWhileBusy ∧ hostOp (.inRead i) s = .fault .hostAccessWhileBusy

/-- Host access to OUT (R55): in an IDLE block OUT[i] reads as its value for i < OUT_LEN, is UnwrittenRead from there up
to OUT_CAP, and BadBufferAccess from OUT_CAP on; a host write is a fault (R54). -/
def Obligations.HostAccessToTheOutputBuffer : Prop :=
  ∀ (s : State) (i : Nat) (v : Word), s.Inv →
    (s.engine = .idle →
      (i < s.outLen.toNat → ∃ u, memRead s.outBuf i = some u
        ∧ hostOp (.outRead i) s = .next { s with reads := u :: s.reads })
      ∧ (s.outLen.toNat ≤ i → i < s.outCap → hostOp (.outRead i) s = .fault .unwrittenRead)
      ∧ (s.outCap ≤ i → hostOp (.outRead i) s = .fault .badBufferAccess)
      ∧ hostOp (.outWrite i v) s = .fault .badBufferAccess)
      ∧ ∀ l wait, s.engine = .busy l wait → hostOp (.outRead i) s = .fault .hostAccessWhileBusy
          ∧ hostOp (.outWrite i v) s = .fault .hostAccessWhileBusy

/-- The WAIT loop ends (R87, R297): a host that waits reads BUSY for exactly the host steps that are left, then EXEC
happens, and after it one more poll ends the loop. That the number of host steps is a count held while BUSY is the
model's choice (log entry 4). -/
def Obligations.WaitLoopEndsAfterExec : Prop :=
  ∀ (s : State) (l : Latched) (wait : Nat) (rest : List HostOp), s.engine = .busy l wait → s.script = .wait :: rest →
    ∃ p : State, p = { s with engine := .busy l 0, reads := List.replicate wait s.statusWord ++ s.reads }
      ∧ Sys2Proof.core.run wait s = .next p ∧ step p = exec (decode l.cmd) p
      ∧ ∀ t, exec (decode l.cmd) p = .next t →
          step t = .next { t with script := rest, reads := t.statusWord :: t.reads }

/-- CHAIN (R87): in 2n + 2 steps of an IDLE block's host, OUT[0] to OUT[n - 1] are copied to IN, n = OUT_LEN is written
to IN_LEN, and OUT, the rest of IN and every other register stay. -/
def Obligations.ChainHandsTheOutputOver : Prop :=
  ∀ (s : State) (rest : List HostOp), s.Inv → s.engine = .idle → s.script = .chain :: rest →
    s.outLen.toNat ≤ s.inCap →
      ∃ t : State, Sys2Proof.core.run (2 * s.outLen.toNat + 2) s = .next t ∧ t.script = rest ∧ t.engine = .idle
        ∧ t.inLen = s.outLen ∧ (∀ j, j < s.outLen.toNat → memRead t.inBuf j = memRead s.outBuf j)
        ∧ (∀ j, s.outLen.toNat ≤ j → memRead t.inBuf j = memRead s.inBuf j)
        ∧ (∀ j, memRead t.outBuf j = memRead s.outBuf j)
        ∧ ∀ r, r ≠ .inLen → t.readReg r = s.readReg r

/-! ## UTIL -/

/-- B2BITS (R101): output bit q is bit 7 - q mod 8 of byte q / 8. -/
def Obligations.B2bitsGivesTheBitsMsbFirst : Prop :=
  decode 0x0000#16 = .b2bits ∧
  ∀ (s : State) (bs : List Byte), s.HasBytes bs →
    (8 * bs.length ≤ s.outCap → exec .b2bits s = .next (s.finishedBits
        ((List.range (8 * bs.length)).map fun q => (bs.getD (q / 8) 0#8).getLsbD (7 - q % 8))))
      ∧ (s.outCap < 8 * bs.length → exec .b2bits s = .next (s.endedWith 11#4))

/-- BITS2B (R103): output byte j holds bits 8j to 8j + 7, the first as bit 7, zeros past the end. -/
def Obligations.Bits2bGivesTheBytesZeroPadded : Prop :=
  decode 0x0001#16 = .bits2b ∧
  ∀ (s : State) (bt : List Bit), s.HasBits bt →
    ((bt.length + 7) / 8 ≤ s.outCap → exec .bits2b s = .next (s.finishedBytes
        ((List.range ((bt.length + 7) / 8)).map fun j => BitVec.ofNat 8
          ((List.range 8).map fun r => (bt.getD (8 * j + r) false).toNat * 2 ^ (7 - r)).sum)))
      ∧ (s.outCap < (bt.length + 7) / 8 → exec .bits2b s = .next (s.endedWith 11#4))

/-- Round trip of the bit and byte conversion (R104), with what `bits` and `bytes` are, bit by bit (R100, R102), and the
number that a bit sequence stands for, most significant bit first. -/
def Obligations.BitsAndBytesRoundTrip : Prop :=
  (∀ bs : List Byte, bytes (bits bs) = bs)
    ∧ (∀ bt : List Bit, bits (bytes bt) = bt ++ List.replicate ((8 - bt.length % 8) % 8) false)
    ∧ (∀ bs : List Byte, bits bs
        = (List.range (8 * bs.length)).map fun q => (bs.getD (q / 8) 0#8).getLsbD (7 - q % 8))
    ∧ (∀ bt : List Bit, bytes bt = (List.range ((bt.length + 7) / 8)).map fun j => BitVec.ofNat 8
        ((List.range 8).map fun r => (bt.getD (8 * j + r) false).toNat * 2 ^ (7 - r)).sum)
    ∧ bitsToNat [] = 0
    ∧ ∀ (b : Bit) (bt : List Bit), bitsToNat (b :: bt) = b.toNat * 2 ^ bt.length + bitsToNat bt

/-! ## Identity commands -/

/-- The six identity commands copy the input bytes, DIR and VARIANT ignored (R111, R112, R113, R140, R141, R142). -/
def Obligations.IdentityCommandsCopyTheInput : Prop :=
  decode 0x1000#16 = .frmNoneEnc ∧ decode 0x1001#16 = .frmNoneDec ∧ decode 0x2000#16 = .ecNoneEnc
    ∧ decode 0x2001#16 = .ecNoneDec
    ∧ (∀ v : BitVec 4, 4 ≤ v.toNat → decode (0x1#4 ++ v ++ 0#8) = .frmPass v .transmit
        ∧ decode (0x1#4 ++ v ++ 1#8) = .frmPass v .receive)
    ∧ (∀ v : BitVec 4, 6 ≤ v.toNat → decode (0x2#4 ++ v ++ 0#8) = .ecPass v .transmit
        ∧ decode (0x2#4 ++ v ++ 1#8) = .ecPass v .receive)
    ∧ ∀ (s : State) (bs : List Byte), s.HasBytes bs →
        ∀ i : Instr, (i = .frmNoneEnc ∨ i = .frmNoneDec ∨ (∃ v d, i = .frmPass v d) ∨ i = .ecNoneEnc ∨ i = .ecNoneDec
            ∨ ∃ v d, i = .ecPass v d) →
          (bs.length ≤ s.outCap → exec i s = .next (s.finishedBytes bs))
            ∧ (s.outCap < bs.length → exec i s = .next (s.endedWith 11#4))

/-! ## FRAMING -/

/-- FRM_LP_ENC (R114): one byte n + 1 before at most 254 bytes of payload; FrameTooLarge above. FRM_LP_DEC (R115): the
first byte is dropped unchecked; an empty frame gives an empty payload. -/
def Obligations.LengthPrefixEncodeAndDecode : Prop :=
  decode 0x1100#16 = .frmLpEnc ∧ decode 0x1101#16 = .frmLpDec ∧
  ∀ (s : State) (bs : List Byte), s.HasBytes bs →
    (bs.length ≤ 254 → bs.length + 1 ≤ s.outCap →
        exec .frmLpEnc s = .next (s.finishedBytes (BitVec.ofNat 8 (bs.length + 1) :: bs)))
      ∧ (bs.length ≤ 254 → s.outCap < bs.length + 1 → exec .frmLpEnc s = .next (s.endedWith 11#4))
      ∧ (254 < bs.length → exec .frmLpEnc s = .next (s.endedWith 1#4))
      ∧ (bs.length - 1 ≤ s.outCap → exec .frmLpDec s = .next (s.finishedBytes bs.tail))
      ∧ (s.outCap < bs.length - 1 → exec .frmLpDec s = .next (s.endedWith 11#4))

/-- FRM_BYS_ENC (R118): flags around the payload, 0x7D before every 0x7D and 0x7E. -/
def Obligations.ByteStuffingEncode : Prop :=
  decode 0x1200#16 = .frmBysEnc ∧
  ∀ (s : State) (bs : List Byte), s.HasBytes bs →
    (bs.length + 2 + bs.countP (fun b => b == 0x7D#8 || b == 0x7E#8) ≤ s.outCap →
        exec .frmBysEnc s = .next (s.finishedBytes (0x7E#8 ::
          bs.flatMap (fun b => if b = 0x7D#8 ∨ b = 0x7E#8 then [0x7D#8, b] else [b]) ++ [0x7E#8])))
      ∧ (s.outCap < bs.length + 2 + bs.countP (fun b => b == 0x7D#8 || b == 0x7E#8) →
          exec .frmBysEnc s = .next (s.endedWith 11#4))

/-- FRM_BYS_DEC (R121): a delimited frame gives the payload its body stands for; a body that ends in an unpaired ESC is
TruncatedEscape; a frame without its two delimiters is MissingFrameDelimiter. -/
def Obligations.ByteStuffingDecode : Prop :=
  decode 0x1201#16 = .frmBysDec ∧
  ∀ s : State,
    (∀ body out : List Byte, EscapedBody body out → s.HasBytes (0x7E#8 :: body ++ [0x7E#8]) →
        (out.length ≤ s.outCap → exec .frmBysDec s = .next (s.finishedBytes out))
          ∧ (s.outCap < out.length → exec .frmBysDec s = .next (s.endedWith 11#4)))
      ∧ (∀ body out : List Byte, EscapedBody body out → s.HasBytes (0x7E#8 :: (body ++ [0x7D#8]) ++ [0x7E#8]) →
          exec .frmBysDec s = .next (s.endedWith 3#4))
      ∧ (∀ bs : List Byte, s.HasBytes bs → (¬ ∃ body, bs = 0x7E#8 :: body ++ [0x7E#8]) →
          exec .frmBysDec s = .next (s.endedWith 2#4))
      ∧ ∀ body : List Byte, (∃ out, EscapedBody body out) ∨ ∃ pre out, EscapedBody pre out ∧ body = pre ++ [0x7D#8]

/-- FRM_BIS_ENC (R125): flags around the bit-stuffed payload, its last byte zero-padded. What `stuff` does (R124):
bits without five 1 bits in a row stay as they are, and after the first five 1 bits in a row comes a 0 and then the
stuffed form of what follows. -/
def Obligations.BitStuffingEncode : Prop :=
  decode 0x1300#16 = .frmBisEnc
  ∧ (∀ bt : List Bit, ¬ HasRunOfFive bt → stuff bt = bt)
  ∧ (∀ before after : List Bit, ¬ HasRunOfFive (before ++ [true, true, true, true]) →
      stuff (before ++ [true, true, true, true, true] ++ after)
        = before ++ [true, true, true, true, true, false] ++ stuff after) ∧
  ∀ (s : State) (bs : List Byte), s.HasBytes bs →
    ((bytes (stuff (bits bs))).length + 2 ≤ s.outCap →
        exec .frmBisEnc s = .next (s.finishedBytes (0x7E#8 :: bytes (stuff (bits bs)) ++ [0x7E#8])))
      ∧ (s.outCap < (bytes (stuff (bits bs))).length + 2 → exec .frmBisEnc s = .next (s.endedWith 11#4))

/-- FRM_BIS_DEC (R128): the destuffed bits of the body, whole bytes only; MissingFrameDelimiter without delimiters. What
`destuff` does (R127): bits without five 1 bits in a row stay as they are, the bit after the first five 1 bits in a row
is dropped whatever its value, if there is one, and destuffing goes on after it. -/
def Obligations.BitStuffingDecode : Prop :=
  decode 0x1301#16 = .frmBisDec
  ∧ (∀ bt : List Bit, ¬ HasRunOfFive bt → destuff bt = bt)
  ∧ (∀ before : List Bit, ¬ HasRunOfFive (before ++ [true, true, true, true]) →
      destuff (before ++ [true, true, true, true, true]) = before ++ [true, true, true, true, true]
        ∧ ∀ (dropped : Bit) (after : List Bit),
          destuff (before ++ [true, true, true, true, true] ++ dropped :: after)
            = before ++ [true, true, true, true, true] ++ destuff after) ∧
  ∀ s : State,
    (∀ body : List Byte, s.HasBytes (0x7E#8 :: body ++ [0x7E#8]) →
      let d := destuff (bits body)
      (d.length / 8 ≤ s.outCap →
          exec .frmBisDec s = .next (s.finishedBytes (bytes (d.take (8 * (d.length / 8))))))
        ∧ (s.outCap < d.length / 8 → exec .frmBisDec s = .next (s.endedWith 11#4)))
      ∧ ∀ bs : List Byte, s.HasBytes bs → (¬ ∃ body, bs = 0x7E#8 :: body ++ [0x7E#8]) →
          exec .frmBisDec s = .next (s.endedWith 2#4)

/-- Length-prefix and byte-stuffing round trips (R116, R122). -/
def Obligations.ByteFramingRoundTrip : Prop :=
  (∀ p : List Byte, p.length ≤ 254 → ∃ f, lpEncode p = .ok f ∧ lpDecode f = p)
    ∧ ∀ p : List Byte, bysDecode (bysEncode p) = .ok p

/-- Bit-stuffing round trip (R129), payloads holding the flag pattern included. -/
def Obligations.BitStuffingRoundTrip : Prop :=
  ∀ p : List Byte, bisDecode (bisEncode p) = .ok p

/-- No flag inside a bit-stuffed payload (R126): six 1 bits in a row never occur in the stuffed bits, nor after their
zero padding, which adds no 1 bit, so neither does the pattern 01111110. -/
def Obligations.StuffedBitsHoldNoFlag : Prop :=
  ∀ p : List Byte, ¬ List.replicate 6 true <:+: padBits 8 (stuff (bits p))
    ∧ ¬ List.replicate 6 true <:+: stuff (bits p)
    ∧ (padBits 8 (stuff (bits p))).count true = (stuff (bits p)).count true
    ∧ ¬ [false, true, true, true, true, true, true, false] <:+: stuff (bits p)

/-! ## ERRCTL -/

/-- PAR_ENC and CSUM_ENC (R143, R146): one byte appended, the parity of the 1 bits, or the complement of the
one's-complement sum (R145). -/
def Obligations.ParityAndChecksumAppend : Prop :=
  decode 0x2100#16 = .parEnc ∧ decode 0x2200#16 = .csumEnc ∧
  ∀ (s : State) (bs : List Byte), s.HasBytes bs →
    (bs.length + 1 ≤ s.outCap →
        exec .parEnc s = .next (s.finishedBytes (bs ++ [if (bits bs).count true % 2 = 1 then 1#8 else 0#8]))
          ∧ exec .csumEnc s = .next (s.finishedBytes (bs ++ [0xFF#8 - BitVec.ofNat 8 (onesComplementSum bs)])))
      ∧ (s.outCap < bs.length + 1 →
          exec .parEnc s = .next (s.endedWith 11#4) ∧ exec .csumEnc s = .next (s.endedWith 11#4))

/-- PAR_CHK (R144) and CSUM_CHK (R147): an even number of 1 bits, or a sum of 0xFF over payload and checksum byte,
passes and loses its last byte; an odd one is ParityError, any other sum ChecksumError; an empty input is
MalformedInput. -/
def Obligations.ParityAndChecksumVerify : Prop :=
  decode 0x2101#16 = .parChk ∧ decode 0x2201#16 = .csumChk ∧
  ∀ (s : State) (bs : List Byte), s.HasBytes bs →
    (bs = [] → exec .parChk s = .next (s.endedWith 9#4) ∧ exec .csumChk s = .next (s.endedWith 9#4))
      ∧ (bs ≠ [] → (bits bs).count true % 2 = 1 → exec .parChk s = .next (s.endedWith 4#4))
      ∧ (bs ≠ [] → (bits bs).count true % 2 = 0 →
          (bs.length - 1 ≤ s.outCap → exec .parChk s = .next (s.finishedBytes bs.dropLast))
            ∧ (s.outCap < bs.length - 1 → exec .parChk s = .next (s.endedWith 11#4)))
      ∧ (bs ≠ [] → onesComplementSum bs ≠ 0xFF → exec .csumChk s = .next (s.endedWith 5#4))
      ∧ (bs ≠ [] → onesComplementSum bs = 0xFF →
          (bs.length - 1 ≤ s.outCap → exec .csumChk s = .next (s.finishedBytes bs.dropLast))
            ∧ (s.outCap < bs.length - 1 → exec .csumChk s = .next (s.endedWith 11#4)))

/-- Parity and checksum round trips, and the sum of a protected block (R148), where the running sum
`osum` with its carry folded after each byte (R145) is the one's-complement sum in closed form. -/
def Obligations.ParityAndChecksumRoundTrip : Prop :=
  ∀ p : List Byte, parCheck (parEncode p) = .ok p ∧ csumCheck (csumEncode p) = .ok p
    ∧ osum p = onesComplementSum p ∧ osum (p ++ [BitVec.ofNat 8 (0xFF - osum p)]) = 0xFF

/-- CRC_GEN (R152): the big-endian trailer of ceil(W / 8) bytes appended; InvalidConfig for W = 0 or W > 32. -/
def Obligations.CrcGenerate : Prop :=
  decode 0x2300#16 = .crcGen ∧
  ∀ (s : State) (bs : List Byte), s.HasBytes bs →
    let w := s.operands.cfg.crcWidth.toNat
    let c := crc bs w s.operands.cfg.crcPoly.toNat
    (w = 0 ∨ 32 < w → exec .crcGen s = .next (s.endedWith 8#4))
      ∧ (1 ≤ w → w ≤ 32 →
          (bs.length + (w + 7) / 8 ≤ s.outCap → exec .crcGen s = .next (s.finishedBytes
              (bs ++ (List.range ((w + 7) / 8)).map fun j => BitVec.ofNat 8 (c / 256 ^ ((w + 7) / 8 - 1 - j)))))
            ∧ (s.outCap < bs.length + (w + 7) / 8 → exec .crcGen s = .next (s.endedWith 11#4)))

/-- CRC_CHK (R153): the payload when its recomputed trailer equals the received one byte for byte, else CrcMismatch;
MalformedInput when the input is shorter than the trailer; InvalidConfig as CRC_GEN. -/
def Obligations.CrcVerify : Prop :=
  decode 0x2301#16 = .crcChk ∧
  ∀ s : State,
    let w := s.operands.cfg.crcWidth.toNat
    let field := fun p : List Byte => (List.range ((w + 7) / 8)).map fun j =>
      BitVec.ofNat 8 (crc p w s.operands.cfg.crcPoly.toNat / 256 ^ ((w + 7) / 8 - 1 - j))
    (∀ bs, s.HasBytes bs → (w = 0 ∨ 32 < w) → exec .crcChk s = .next (s.endedWith 8#4))
      ∧ (∀ bs, s.HasBytes bs → 1 ≤ w → w ≤ 32 → bs.length < (w + 7) / 8 → exec .crcChk s = .next (s.endedWith 9#4))
      ∧ ∀ p tr : List Byte, s.HasBytes (p ++ tr) → 1 ≤ w → w ≤ 32 → tr.length = (w + 7) / 8 →
          (tr ≠ field p → exec .crcChk s = .next (s.endedWith 6#4))
            ∧ (tr = field p → p.length ≤ s.outCap → exec .crcChk s = .next (s.finishedBytes p))
            ∧ (tr = field p → s.outCap < p.length → exec .crcChk s = .next (s.endedWith 11#4))

/-- The CRC is the remainder of the message times x^W modulo x^W + P over GF(2) (R150). -/
def Obligations.CrcIsThePolynomialRemainder : Prop :=
  ∀ (bs : List Byte) (w poly : Nat), 1 ≤ w → w ≤ 32 →
    crc bs w poly < 2 ^ w
      ∧ ∃ n q, clMul n q (2 ^ w + poly % 2 ^ w) ^^^ crc bs w poly = bitsToNat (bits bs) <<< w

/-- CRC round trip, and detection of every single-bit payload error when P has bit 0 set (R155). -/
def Obligations.CrcRoundTripAndSingleBitErrors : Prop :=
  ∀ (p : List Byte) (w poly : Nat), 1 ≤ w → w ≤ 32 →
    (∃ b, crcGenerate w poly p = .ok b ∧ crcCheck w poly b = .ok p)
      ∧ (poly % 2 = 1 → ∀ i k, i < p.length → k < 8 →
          crc (p.modify i fun b => b ^^^ BitVec.ofNat 8 (2 ^ k)) w poly ≠ crc p w poly)

/-- The check values over "123456789" (R154). -/
def Obligations.CrcCheckValues : Prop :=
  let m : List Byte := [0x31#8, 0x32#8, 0x33#8, 0x34#8, 0x35#8, 0x36#8, 0x37#8, 0x38#8, 0x39#8]
  crc m 32 0x04C11DB7 = 0x89A1897F ∧ crc m 16 0x1021 = 0x31C3 ∧ crc m 16 0x8005 = 0xFEE8 ∧ crc m 8 0x07 = 0xF4
    ∧ crc m 5 0x05 = 0x16 ∧ crc m 12 0x80F = 0xF5B

/-- p is the smallest integer with 2^p ≥ k + p + 1 (R158), with the Hamming(7,4) codewords (R165) and the Hamming(8,4)
code bytes (R170). For every k, an encoded block has the data bits at its data positions in order and an even number of
1 bits in each parity group (R159), and decoding gives the data bits of the block with the bit inverted whose position
is the XOR of the positions that hold a 1, where there is such a position (R161, R162). -/
def Obligations.HammingParityCountAndCodewords : Prop :=
  (∀ k, k + hamParityBits k + 1 ≤ 2 ^ hamParityBits k ∧ ∀ q, q < hamParityBits k → 2 ^ q < k + q + 1)
    ∧ [1, 2, 3, 4, 5, 8, 11, 12, 26, 57, 255].map (fun k => (hamParityBits k, hamBlockBits k))
      = [(2, 3), (3, 5), (3, 6), (3, 7), (4, 9), (4, 12), (4, 15), (5, 17), (5, 31), (6, 63), (9, 264)]
    ∧ (List.range 16).map (fun v => bitsToNat (hamEncodeBlock 4 [v.testBit 3, v.testBit 2, v.testBit 1, v.testBit 0]))
      = [0b0000000, 0b1101001, 0b0101010, 0b1000011, 0b1001100, 0b0100101, 0b1100110, 0b0001111, 0b1110000, 0b0011001,
          0b1011010, 0b0110011, 0b0111100, 0b1010101, 0b0010110, 0b1111111]
    ∧ (List.range 16).map (fun v => h84Encode (BitVec.ofNat 4 v))
      = [0x00#8, 0xD2#8, 0x55#8, 0x87#8, 0x99#8, 0x4B#8, 0xCC#8, 0x1E#8, 0xE1#8, 0x33#8, 0xB4#8, 0x66#8, 0x78#8, 0xAA#8,
          0x2D#8, 0xFF#8]
    ∧ (∀ (k : Nat) (d : List Bit), 1 ≤ k → d.length = k →
        let c := hamEncodeBlock k d
        c.length = k + hamParityBits k ∧ (dataPositions c.length).map (fun q => c.getD (q - 1) false) = d
          ∧ ∀ i, i < hamParityBits k →
              (List.range' 1 c.length).countP (fun q => q.testBit i && c.getD (q - 1) false) % 2 = 0)
    ∧ ∀ (k : Nat) (c : List Bit), 1 ≤ k → c.length = k + hamParityBits k →
        hamDecodeBlock k c
          = (dataPositions c.length).map fun q => c.getD (q - 1) false != decide (q = positionsXor c)

/-- HAM_ENC (R160): the packed blocks and the two-byte big-endian bit count; InvalidConfig for k = 0, FrameTooLarge
above 8191 bytes. -/
def Obligations.HammingEncode : Prop :=
  decode 0x2400#16 = .hamEnc ∧
  ∀ (s : State) (bs : List Byte), s.HasBytes bs →
    let k := s.operands.cfg.hamK.toNat
    let size := ((8 * bs.length + k - 1) / k * (k + hamParityBits k) + 7) / 8 + 2
    (k = 0 → exec .hamEnc s = .next (s.endedWith 8#4))
      ∧ (1 ≤ k → 8191 < bs.length → exec .hamEnc s = .next (s.endedWith 1#4))
      ∧ (1 ≤ k → bs.length ≤ 8191 →
          (size ≤ s.outCap → exec .hamEnc s = .next (s.finishedBytes
              (bytes ((List.range ((8 * bs.length + k - 1) / k)).flatMap fun j =>
                  hamEncodeBlock k ((List.range k).map fun r => (bits bs).getD (j * k + r) false))
                ++ [BitVec.ofNat 8 (8 * bs.length / 256), BitVec.ofNat 8 (8 * bs.length % 256)])))
            ∧ (s.outCap < size → exec .hamEnc s = .next (s.endedWith 11#4)))

/-- HAM_DEC (R163): every whole block decoded, the data truncated to the count and packed; InvalidConfig for k = 0,
MalformedInput below two bytes. -/
def Obligations.HammingDecode : Prop :=
  decode 0x2401#16 = .hamDec ∧
  ∀ s : State,
    let k := s.operands.cfg.hamK.toNat
    (∀ bs, s.HasBytes bs → k = 0 → exec .hamDec s = .next (s.endedWith 8#4))
      ∧ (∀ bs, s.HasBytes bs → 1 ≤ k → bs.length < 2 → exec .hamDec s = .next (s.endedWith 9#4))
      ∧ ∀ (code : List Byte) (hi lo : Byte), s.HasBytes (code ++ [hi, lo]) → 1 ≤ k →
          let n := k + hamParityBits k
          let data := ((List.range (8 * code.length / n)).flatMap fun j =>
            hamDecodeBlock k (((bits code).drop (j * n)).take n)).take (hi.toNat * 256 + lo.toNat)
          ((data.length + 7) / 8 ≤ s.outCap → exec .hamDec s = .next (s.finishedBytes (bytes data)))
            ∧ (s.outCap < (data.length + 7) / 8 → exec .hamDec s = .next (s.endedWith 11#4))

/-- HAM_DEC corrects one inverted bit in each block, in any number of blocks (R164 a and b): `flip j` names the position
inverted in block j, if any. -/
def Obligations.HammingCorrectsOneBitPerBlock : Prop :=
  ∀ (p : List Byte) (k : Nat) (flip : Nat → Option Nat), 1 ≤ k → k ≤ 255 → p.length ≤ 8191 →
    (∀ j q, flip j = some q → q < k + hamParityBits k) →
      hamDecode k (bytes ((chunks k (padBits k (bits p))).zipIdx.flatMap (fun dj =>
          match flip dj.2 with
          | none => hamEncodeBlock k dj.1
          | some q => (hamEncodeBlock k dj.1).modify q (!·)))
        ++ [BitVec.ofNat 8 (8 * p.length / 256), BitVec.ofNat 8 (8 * p.length % 256)]) = .ok p

/-- HAM84_ENC (R171): two code bytes for each byte, high nibble first. -/
def Obligations.Hamming84Encode : Prop :=
  decode 0x2500#16 = .ham84Enc ∧
  ∀ (s : State) (bs : List Byte), s.HasBytes bs →
    (2 * bs.length ≤ s.outCap → exec .ham84Enc s = .next (s.finishedBytes
        ((List.range (2 * bs.length)).map fun q => h84Encode (BitVec.ofNat 4
          (if q % 2 = 0 then (bs.getD (q / 2) 0#8).toNat / 16 else (bs.getD (q / 2) 0#8).toNat % 16)))))
      ∧ (s.outCap < 2 * bs.length → exec .ham84Enc s = .next (s.endedWith 11#4))

/-- HAM84_DEC (R173): MalformedInput for an odd length; HammingUncorrectable when some code byte has an even number of 1
bits and a non-zero syndrome; otherwise each pair of code bytes gives its byte. -/
def Obligations.Hamming84Decode : Prop :=
  decode 0x2501#16 = .ham84Dec ∧
  ∀ (s : State) (bs : List Byte), s.HasBytes bs →
    let bad := fun e : Byte => (bits [e]).count true % 2 = 0 ∧ positionsXor ((bits [e]).take 7) ≠ 0
    (bs.length % 2 = 1 → exec .ham84Dec s = .next (s.endedWith 9#4))
      ∧ (bs.length % 2 = 0 → (∃ e ∈ bs, bad e) → exec .ham84Dec s = .next (s.endedWith 10#4))
      ∧ ∀ nibbles : List (BitVec 4), bs.length % 2 = 0 → bs.map h84Decode = nibbles.map Except.ok →
          (bs.length / 2 ≤ s.outCap → exec .ham84Dec s = .next (s.finishedBytes
              ((List.range (bs.length / 2)).map fun j => BitVec.ofNat 8
                ((nibbles.getD (2 * j) 0#4).toNat * 16 + (nibbles.getD (2 * j + 1) 0#4).toNat))))
            ∧ (s.outCap < bs.length / 2 → exec .ham84Dec s = .next (s.endedWith 11#4))

/-- Hamming(8,4) (R174): the round trip with at most one bit inverted in each code byte, detection of two inverted bits
in a code byte whatever the other bytes are, and the Hamming(7,4) block inside every code byte. With them, what
each of the 256 received bytes decodes to (R172). -/
def Obligations.Hamming84CorrectsOneAndDetectsTwo : Prop :=
  (∀ (p : List Byte) (flip : Nat → Option (Fin 8)),
      ham84Decode ((ham84Encode p).zipIdx.map fun ej =>
        match flip ej.2 with
        | none => ej.1
        | some b => ej.1 ^^^ BitVec.ofNat 8 (2 ^ b.val)) = .ok p)
    ∧ (∀ (code : List Byte) (j : Nat) (v : BitVec 4) (a b : Fin 8), code.length % 2 = 0 → j < code.length → a ≠ b →
        ham84Decode (code.set j (h84Encode v ^^^ BitVec.ofNat 8 (2 ^ a.val) ^^^ BitVec.ofNat 8 (2 ^ b.val)))
          = .error .hammingUncorrectable)
    ∧ (∀ v : BitVec 4, (bits [h84Encode v]).take 7
        = hamEncodeBlock 4 [v.getLsbD 3, v.getLsbD 2, v.getLsbD 1, v.getLsbD 0])
    ∧ ∀ e : Byte, h84Decode e =
        let odd := (bits [e]).count true % 2 = 1
        let sy := positionsXor ((bits [e]).take 7)
        let c := fun q : Nat => (e.getLsbD (8 - q) != decide (odd ∧ q = sy)).toNat
        if ¬ odd ∧ sy ≠ 0 then .error .hammingUncorrectable
        else .ok (BitVec.ofNat 4 (c 3 * 8 + c 5 * 4 + c 6 * 2 + c 7))

/-! ## LINECODE -/

/-- NRZ_ENC, MAN_ENC and AMI_ENC (R191, R195, R201), sample by sample: sample q belongs to bit q / s; the AMI pulse of a
1 bit is +1.0 when it is the first, third, … 1 of the command and -1.0 otherwise. -/
def Obligations.LineCodesModulate : Prop :=
  decode 0x3000#16 = .nrzEnc ∧ decode 0x3100#16 = .manEnc ∧ decode 0x3200#16 = .amiEnc ∧
  ∀ (s : State) (bt : List Bit), s.HasBits bt →
    let n := s.operands.cfg.spb.toNat
    let one := 0x3FF0000000000000#64
    let minusOne := 0xBFF0000000000000#64
    (n < 1 → exec .nrzEnc s = .next (s.endedWith 8#4) ∧ exec .amiEnc s = .next (s.endedWith 8#4))
      ∧ (n < 2 → exec .manEnc s = .next (s.endedWith 8#4))
      ∧ (1 ≤ n → bt.length * n ≤ s.outCap →
          exec .nrzEnc s = .next (s.finishedSamples ((List.range (bt.length * n)).map fun q =>
              if bt.getD (q / n) false then one else minusOne))
            ∧ exec .amiEnc s = .next (s.finishedSamples ((List.range (bt.length * n)).map fun q =>
              if bt.getD (q / n) false then
                if (bt.take (q / n + 1)).count true % 2 = 1 then one else minusOne
              else 0#64)))
      ∧ (2 ≤ n → bt.length * n ≤ s.outCap →
          exec .manEnc s = .next (s.finishedSamples ((List.range (bt.length * n)).map fun q =>
              if bt.getD (q / n) false = decide (q % n < n / 2) then one else minusOne)))
      ∧ (1 ≤ n → s.outCap < bt.length * n →
          exec .nrzEnc s = .next (s.endedWith 11#4) ∧ exec .amiEnc s = .next (s.endedWith 11#4))
      ∧ (2 ≤ n → s.outCap < bt.length * n → exec .manEnc s = .next (s.endedWith 11#4))

/-- NRZ_DEC, MAN_DEC and AMI_DEC (R192, R196, R202): a decision on the mean of each whole block, or of its first half.
The mean is the formula of R193. That the formula, and not R193's remark on sums below `len` times the smallest subnormal,
decides a positive sum above half of that bound is the model's choice (log entry 19). -/
def Obligations.LineCodesDemodulate : Prop :=
  decode 0x3001#16 = .nrzDec ∧ decode 0x3101#16 = .manDec ∧ decode 0x3201#16 = .amiDec ∧
  ∀ (s : State) (xs : List F64), s.HasSamples xs →
    let n := s.operands.cfg.spb.toNat
    let mean := fun from' len => fdiv (((xs.drop from').take len).foldl fadd 0#64) (f64 len)
    (n < 1 → exec .nrzDec s = .next (s.endedWith 8#4) ∧ exec .amiDec s = .next (s.endedWith 8#4))
      ∧ (n < 2 → exec .manDec s = .next (s.endedWith 8#4))
      ∧ (1 ≤ n → xs.length / n ≤ s.outCap →
          exec .nrzDec s = .next (s.finishedBits ((List.range (xs.length / n)).map fun j => fgt (mean (j * n) n) 0#64))
            ∧ exec .amiDec s = .next (s.finishedBits ((List.range (xs.length / n)).map fun j =>
                !flt (mean (j * n) n &&& 0x7FFFFFFFFFFFFFFF#64) 0x3FB999999999999A#64)))
      ∧ (2 ≤ n → xs.length / n ≤ s.outCap →
          exec .manDec s = .next (s.finishedBits ((List.range (xs.length / n)).map fun j =>
            fgt (mean (j * n) (n / 2)) 0#64)))
      ∧ (1 ≤ n → s.outCap < xs.length / n →
          exec .nrzDec s = .next (s.endedWith 11#4) ∧ exec .amiDec s = .next (s.endedWith 11#4))
      ∧ (2 ≤ n → s.outCap < xs.length / n → exec .manDec s = .next (s.endedWith 11#4))

/-- Line-code round trips, exactly in binary64 (R204). -/
def Obligations.LineCodesRoundTrip : Prop :=
  ∀ (n : Nat) (bt : List Bit), 1 ≤ n → n < 2 ^ 32 →
    nrzDecode n (nrzEncode n bt) = bt ∧ amiDecode n (amiEncode n bt) = bt
      ∧ (2 ≤ n → manDecode n (manEncode n bt) = bt)

/-- LC_UNKNOWN and PB_UNKNOWN (R203, R224): UnknownStrategy in every state, whatever IN_LEN, IN and the configuration
hold. -/
def Obligations.UnknownSelectorsEndWithUnknownStrategy : Prop :=
  (∀ v : BitVec 4, 3 ≤ v.toNat → decode (0x3#4 ++ v ++ 0#8) = .lcUnknown v .transmit
      ∧ decode (0x3#4 ++ v ++ 1#8) = .lcUnknown v .receive)
    ∧ (∀ v : BitVec 4, 4 ≤ v.toNat → decode (0x4#4 ++ v ++ 0#8) = .pbUnknown v .transmit
      ∧ decode (0x4#4 ++ v ++ 1#8) = .pbUnknown v .receive)
    ∧ ∀ (s : State) (v : BitVec 4) (d : Dir),
        exec (.lcUnknown v d) s = .next (s.endedWith 7#4) ∧ exec (.pbUnknown v d) s = .next (s.endedWith 7#4)

/-! ## PASSBAND -/

/-- ASK_MOD and FSK_MOD (R214, R216), sample by sample: sample q is sample q mod s of bit q / s. The
time vector and the carrier argument are written out from their rules (R210, R211). -/
def Obligations.AskAndFskModulate : Prop :=
  decode 0x4000#16 = .askMod ∧ decode 0x4100#16 = .fskMod ∧
  ∀ (s : State) (bt : List Bit), s.HasBits bt →
    let cfg := s.operands.cfg
    let n := cfg.spb.toNat
    let time := fun r : Nat => fmul (f64 r) (fdiv (f64 1) (f64 n))
    let arg := fun f r : Nat => fmul (fmul (fmul (f64 2) 0x400921FB54442D18#64) (f64 f)) (time r)
    (n < 1 → exec .askMod s = .next (s.endedWith 8#4))
      ∧ (n < 1 ∨ cfg.f0 = cfg.f1 → exec .fskMod s = .next (s.endedWith 8#4))
      ∧ (1 ≤ n → bt.length * n ≤ s.outCap →
          exec .askMod s = .next (s.finishedSamples ((List.range (bt.length * n)).map fun q =>
            fmul (if bt.getD (q / n) false then cfg.a1 else cfg.a0)
              (Config.sin64 (arg cfg.fc.toNat (q % n))))))
      ∧ (1 ≤ n → cfg.f0 ≠ cfg.f1 → bt.length * n ≤ s.outCap →
          exec .fskMod s = .next (s.finishedSamples ((List.range (bt.length * n)).map fun q =>
            Config.sin64 (arg (if bt.getD (q / n) false then cfg.f1.toNat else cfg.f0.toNat) (q % n)))))
      ∧ (1 ≤ n → s.outCap < bt.length * n → exec .askMod s = .next (s.endedWith 11#4))
      ∧ (1 ≤ n → cfg.f0 ≠ cfg.f1 → s.outCap < bt.length * n → exec .fskMod s = .next (s.endedWith 11#4))

/-- ASK_DEM and FSK_DEM (R215, R217): a decision on the correlation of each whole block, whatever the samples. The
time vector and the carrier argument are written out from their rules (R210, R211). -/
def Obligations.AskAndFskDemodulate : Prop :=
  decode 0x4001#16 = .askDem ∧ decode 0x4101#16 = .fskDem ∧
  ∀ (s : State) (xs : List F64), s.HasSamples xs →
    let cfg := s.operands.cfg
    let n := cfg.spb.toNat
    let time := fun r : Nat => fmul (f64 r) (fdiv (f64 1) (f64 n))
    let arg := fun f r : Nat => fmul (fmul (fmul (f64 2) 0x400921FB54442D18#64) (f64 f)) (time r)
    let co := fun j f => ((List.range n).map fun r =>
      fmul (xs.getD (j * n + r) 0#64) (Config.sin64 (arg f r))).foldl fadd 0#64
    (n < 1 → exec .askDem s = .next (s.endedWith 8#4))
      ∧ (n < 1 ∨ cfg.f0 = cfg.f1 → exec .fskDem s = .next (s.endedWith 8#4))
      ∧ (1 ≤ n → xs.length / n ≤ s.outCap →
          exec .askDem s = .next (s.finishedBits ((List.range (xs.length / n)).map fun j =>
            fgt (co j cfg.fc.toNat) 0#64)))
      ∧ (1 ≤ n → cfg.f0 ≠ cfg.f1 → xs.length / n ≤ s.outCap →
          exec .fskDem s = .next (s.finishedBits ((List.range (xs.length / n)).map fun j =>
            fgt (co j cfg.f1.toNat) (co j cfg.f0.toNat))))
      ∧ (1 ≤ n → s.outCap < xs.length / n → exec .askDem s = .next (s.endedWith 11#4))
      ∧ (1 ≤ n → cfg.f0 ≠ cfg.f1 → s.outCap < xs.length / n → exec .fskDem s = .next (s.endedWith 11#4))

/-- QPSK_MOD (R219), sample by sample: a lone last bit is paired with 0, and symbol 2·b0 + b1 takes its phase of R39.
The time vector, the carrier argument and the phase are written out from their rules (R210, R211). -/
def Obligations.QpskModulate : Prop :=
  decode 0x4200#16 = .qpskMod ∧
  ∀ (s : State) (bt : List Bit), s.HasBits bt →
    let n := s.operands.cfg.spb.toNat
    let time := fun r : Nat => fmul (f64 r) (fdiv (f64 1) (f64 n))
    let arg := fun f r : Nat => fmul (fmul (fmul (f64 2) 0x400921FB54442D18#64) (f64 f)) (time r)
    let phi := fun d : Nat => fdiv (fmul (f64 d) 0x400921FB54442D18#64) (f64 180)
    let size := (bt.length + 1) / 2 * n
    let symbol := fun i => 2 * (bt.getD (2 * i) false).toNat + (bt.getD (2 * i + 1) false).toNat
    (n < 1 → exec .qpskMod s = .next (s.endedWith 8#4))
      ∧ (1 ≤ n → size ≤ s.outCap → exec .qpskMod s = .next (s.finishedSamples ((List.range size).map fun q =>
          Config.sin64 (fadd (arg s.operands.cfg.fc.toNat (q % n))
            (phi ([45, 135, 315, 225].getD (symbol (q / n)) 0))))))
      ∧ (1 ≤ n → s.outCap < size → exec .qpskMod s = .next (s.endedWith 11#4))

/-- QPSK_DEM (R220): each whole block gives the two bits of the first symbol of greatest correlation, compared in symbol
order with strict comparisons. The time vector, the carrier argument and the phase are written out from their rules
(R210, R211). -/
def Obligations.QpskDemodulate : Prop :=
  decode 0x4201#16 = .qpskDem ∧
  ∀ (s : State) (xs : List F64), s.HasSamples xs →
    let n := s.operands.cfg.spb.toNat
    let time := fun r : Nat => fmul (f64 r) (fdiv (f64 1) (f64 n))
    let arg := fun f r : Nat => fmul (fmul (fmul (f64 2) 0x400921FB54442D18#64) (f64 f)) (time r)
    let phi := fun d : Nat => fdiv (fmul (f64 d) 0x400921FB54442D18#64) (f64 180)
    let co := fun j k => ((List.range n).map fun r => fmul (xs.getD (j * n + r) 0#64)
      (Config.sin64 (fadd (arg s.operands.cfg.fc.toNat r) (phi ([45, 135, 315, 225].getD k 0))))).foldl fadd 0#64
    let best := fun j => [1, 2, 3].foldl (fun b k => if fgt (co j k) (co j b) then k else b) 0
    (n < 1 → exec .qpskDem s = .next (s.endedWith 8#4))
      ∧ (1 ≤ n → 2 * (xs.length / n) ≤ s.outCap → exec .qpskDem s = .next (s.finishedBits
          ((List.range (xs.length / n)).flatMap fun j => [decide (best j / 2 % 2 = 1), decide (best j % 2 = 1)])))
      ∧ (1 ≤ n → s.outCap < 2 * (xs.length / n) → exec .qpskDem s = .next (s.endedWith 11#4))

/-- QAM16_MOD (R222), sample by sample: I·cos - Q·sin of the symbol of four bits, zero-padded, with the levels of R40.
The time vector and the carrier argument are written out from their rules (R210, R211). -/
def Obligations.Qam16Modulate : Prop :=
  decode 0x4300#16 = .qam16Mod ∧
  ∀ (s : State) (bt : List Bit), s.HasBits bt →
    let n := s.operands.cfg.spb.toNat
    let time := fun r : Nat => fmul (f64 r) (fdiv (f64 1) (f64 n))
    let arg := fun f r : Nat => fmul (fmul (fmul (f64 2) 0x400921FB54442D18#64) (f64 f)) (time r)
    let size := (bt.length + 3) / 4 * n
    let level := fun i => [0xC008000000000000#64, 0xBFF0000000000000#64, 0x4008000000000000#64,
      0x3FF0000000000000#64].getD (2 * (bt.getD i false).toNat + (bt.getD (i + 1) false).toNat) 0#64
    let at' := fun q => arg s.operands.cfg.fc.toNat (q % n)
    (n < 1 → exec .qam16Mod s = .next (s.endedWith 8#4))
      ∧ (1 ≤ n → size ≤ s.outCap → exec .qam16Mod s = .next (s.finishedSamples ((List.range size).map fun q =>
          fsub (fmul (level (4 * (q / n))) (Config.cos64 (at' q)))
            (fmul (level (4 * (q / n) + 2)) (Config.sin64 (at' q))))))
      ∧ (1 ≤ n → s.outCap < size → exec .qam16Mod s = .next (s.endedWith 11#4))

/-- QAM16_DEM (R223): each whole block gives the four bits of the first constellation point of smallest distance to the
estimate, compared in symbol order with strict comparisons. The time vector and the carrier argument are written out
from their rules (R210, R211). -/
def Obligations.Qam16Demodulate : Prop :=
  decode 0x4301#16 = .qam16Dem ∧
  ∀ (s : State) (xs : List F64), s.HasSamples xs →
    let n := s.operands.cfg.spb.toNat
    let time := fun r : Nat => fmul (f64 r) (fdiv (f64 1) (f64 n))
    let arg := fun f r : Nat => fmul (fmul (fmul (f64 2) 0x400921FB54442D18#64) (f64 f)) (time r)
    let co := fun (wave : F64 → F64) j => ((List.range n).map fun r =>
      fmul (xs.getD (j * n + r) 0#64) (wave (arg s.operands.cfg.fc.toNat r))).foldl fadd 0#64
    let ie := fun j => fmul (fdiv (f64 2) (f64 n)) (co Config.cos64 j)
    let qe := fun j => fmul (fdiv (f64 2) (f64 n)) (co Config.sin64 j) ^^^ 0x8000000000000000#64
    let level := fun k => [0xC008000000000000#64, 0xBFF0000000000000#64, 0x4008000000000000#64,
      0x3FF0000000000000#64].getD k 0#64
    let dist := fun j k => fadd (fmul (fsub (ie j) (level (k / 4))) (fsub (ie j) (level (k / 4))))
      (fmul (fsub (qe j) (level (k % 4))) (fsub (qe j) (level (k % 4))))
    let best := fun j => (List.range 16).foldl (fun b k => if flt (dist j k) (dist j b) then k else b) 0
    (n < 1 → exec .qam16Dem s = .next (s.endedWith 8#4))
      ∧ (1 ≤ n → 4 * (xs.length / n) ≤ s.outCap → exec .qam16Dem s = .next (s.finishedBits
          ((List.range (xs.length / n)).flatMap fun j =>
            [(best j).testBit 3, (best j).testBit 2, (best j).testBit 1, (best j).testBit 0])))
      ∧ (1 ≤ n → s.outCap < 4 * (xs.length / n) → exec .qam16Dem s = .next (s.endedWith 11#4))

/-! ## Binary64 -/

/-- The binary64 operations round to nearest, ties to even (R10): the value of a pattern (sign, exponent field,
fraction), and then, on finite operands, that sum, difference, product and quotient are the exact result rounded once,
subnormals and the step to infinity included, with the sign of a zero. The rounding of a rational to an integer is the
same. -/
def Obligations.RoundingIsToNearestEven : Prop :=
  (∀ x : F64,
    let e := x.toNat / 2 ^ 52 % 2048
    let f := x.toNat % 2 ^ 52
    let magnitude : Nat := if e = 0 then f else (2 ^ 52 + f) * 2 ^ (e - 1)
    (isNan x = true ↔ e = 2047 ∧ f ≠ 0) ∧ (isInf x = true ↔ e = 2047 ∧ f = 0)
      ∧ fval x = if 2 ^ 63 ≤ x.toNat then -(magnitude : Int) else magnitude)
    ∧ (∀ a b : F64, Finite a → Finite b →
      RoundsTo (fadd a b) (fval a + fval b) 1 ∧ RoundsTo (fsub a b) (fval a - fval b) 1
        ∧ RoundsTo (fmul a b) (fval a * fval b) (2 ^ 1074)
        ∧ (fval b ≠ 0 → RoundsTo (fdiv a b) (fval a * 2 ^ 1074 * (fval b).sign) (fval b).natAbs)
        ∧ (fval a + fval b = 0 → fadd a b = if a.getLsbD 63 && b.getLsbD 63 then 0x8000000000000000#64 else 0#64)
        ∧ (fval a - fval b = 0 → fsub a b = if a.getLsbD 63 && !b.getLsbD 63 then 0x8000000000000000#64 else 0#64)
        ∧ (fmul a b).getLsbD 63 = (a.getLsbD 63 != b.getLsbD 63)
        ∧ (fval b ≠ 0 → (fdiv a b).getLsbD 63 = (a.getLsbD 63 != b.getLsbD 63)))
    ∧ ∀ p q : Nat, 0 < q →
      2 * (roundQuot p q * q) ≤ 2 * p + q ∧ 2 * p ≤ 2 * (roundQuot p q * q) + q
        ∧ ((2 * (roundQuot p q * q) = 2 * p + q ∨ 2 * p = 2 * (roundQuot p q * q) + q) → roundQuot p q % 2 = 0)

/-- `f64(n)` is exact below 2^53, and sums and comparisons of such integers are exact (R10). With them the rest of R10:
comparisons by value, false for a NaN, and IEEE 754's results on NaN, infinity and a zero divisor, where the pattern of
a NaN result is free (log entry 3). -/
def Obligations.SmallIntegersAreExact : Prop :=
  (∀ n m : Nat, n < 2 ^ 53 → m < 2 ^ 53 →
    fval (f64 n) = (n : Int) * 2 ^ 1074 ∧ isNan (f64 n) = false ∧ isInf (f64 n) = false
      ∧ (f64 n).getLsbD 63 = false
      ∧ (n + m < 2 ^ 53 → fadd (f64 n) (f64 m) = f64 (n + m))
      ∧ (flt (f64 n) (f64 m) = true ↔ n < m))
    ∧ ∀ a b : F64,
      let sign := a.getLsbD 63 != b.getLsbD 63
      let infinity := if sign then 0xFFF0000000000000#64 else 0x7FF0000000000000#64
      (flt a b = true ↔ isNan a = false ∧ isNan b = false ∧ fval a < fval b) ∧ fgt a b = flt b a
        ∧ (feq a b = true ↔ isNan a = false ∧ isNan b = false ∧ fval a = fval b)
        ∧ (isNan a = true ∨ isNan b = true → isNan (fadd a b) = true ∧ isNan (fsub a b) = true
            ∧ isNan (fmul a b) = true ∧ isNan (fdiv a b) = true)
        ∧ (isInf a = true → Finite b → fadd a b = a ∧ fadd b a = a ∧ fsub a b = a
            ∧ fsub b a = a ^^^ 0x8000000000000000#64)
        ∧ (isInf a = true → isInf b = true → sign = false → fadd a b = a ∧ isNan (fsub a b) = true)
        ∧ (isInf a = true → isInf b = true → sign = true → isNan (fadd a b) = true ∧ fsub a b = a)
        ∧ (isInf a = true → isNan b = false → fval b ≠ 0 → fmul a b = infinity ∧ fmul b a = infinity)
        ∧ (isInf a = true → fval b = 0 → isNan (fmul a b) = true ∧ isNan (fmul b a) = true)
        ∧ (isInf a = true → isInf b = true → isNan (fdiv a b) = true)
        ∧ (isInf a = true → Finite b → fdiv a b = infinity)
        ∧ (Finite a → isInf b = true → fdiv a b = if sign then 0x8000000000000000#64 else 0#64)
        ∧ (Finite a → fval b = 0 → (fval a = 0 → isNan (fdiv a b) = true) ∧ (fval a ≠ 0 → fdiv a b = infinity))
end

