-- ==== Sys2Proof/Laws/State.lean ====
section
/-! SUPPORT. One lemma per field per named update of State, each true by rfl, so that no proof unfolds a record
update. -/

namespace Sys2Proof.Machine

section
variable (s : State) (w : Nat)
@[simp] theorem State.latch_cmd : (s.latch w).cmd = s.cmd := rfl
@[simp] theorem State.latch_done : (s.latch w).done = false := rfl
@[simp] theorem State.latch_err : (s.latch w).err = false := rfl
@[simp] theorem State.latch_errCode : (s.latch w).errCode = 0#4 := rfl
@[simp] theorem State.latch_inLen : (s.latch w).inLen = s.inLen := rfl
@[simp] theorem State.latch_outLen : (s.latch w).outLen = s.outLen := rfl
@[simp] theorem State.latch_inCap : (s.latch w).inCap = s.inCap := rfl
@[simp] theorem State.latch_outCap : (s.latch w).outCap = s.outCap := rfl
@[simp] theorem State.latch_cfg : (s.latch w).cfg = s.cfg := rfl
@[simp] theorem State.latch_inBuf : (s.latch w).inBuf = s.inBuf := rfl
@[simp] theorem State.latch_outBuf : (s.latch w).outBuf = s.outBuf := rfl
@[simp] theorem State.latch_engine : (s.latch w).engine = .busy s.snapshot w := rfl
@[simp] theorem State.latch_starts : (s.latch w).starts = s.starts := rfl
@[simp] theorem State.latch_script : (s.latch w).script = s.script := rfl
@[simp] theorem State.latch_reads : (s.latch w).reads = s.reads := rfl
end

section
variable (s : State)
@[simp] theorem State.start_cmd : s.start.cmd = s.cmd := rfl
@[simp] theorem State.start_done : s.start.done = false := rfl
@[simp] theorem State.start_err : s.start.err = false := rfl
@[simp] theorem State.start_errCode : s.start.errCode = 0#4 := rfl
@[simp] theorem State.start_inLen : s.start.inLen = s.inLen := rfl
@[simp] theorem State.start_outLen : s.start.outLen = s.outLen := rfl
@[simp] theorem State.start_inCap : s.start.inCap = s.inCap := rfl
@[simp] theorem State.start_outCap : s.start.outCap = s.outCap := rfl
@[simp] theorem State.start_cfg : s.start.cfg = s.cfg := rfl
@[simp] theorem State.start_inBuf : s.start.inBuf = s.inBuf := rfl
@[simp] theorem State.start_outBuf : s.start.outBuf = s.outBuf := rfl
@[simp] theorem State.start_engine : s.start.engine = .busy s.snapshot (Config.execDelay s.starts) := rfl
@[simp] theorem State.start_starts : s.start.starts = s.starts + 1 := rfl
@[simp] theorem State.start_script : s.start.script = s.script := rfl
@[simp] theorem State.start_reads : s.start.reads = s.reads := rfl
end

section
variable (s : State) (out : List Word)
@[simp] theorem State.completeOk_cmd : (s.completeOk out).cmd = s.cmd := rfl
@[simp] theorem State.completeOk_done : (s.completeOk out).done = true := rfl
@[simp] theorem State.completeOk_err : (s.completeOk out).err = false := rfl
@[simp] theorem State.completeOk_errCode : (s.completeOk out).errCode = 0#4 := rfl
@[simp] theorem State.completeOk_inLen : (s.completeOk out).inLen = s.inLen := rfl
@[simp] theorem State.completeOk_outLen : (s.completeOk out).outLen = BitVec.ofNat 32 out.length := rfl
@[simp] theorem State.completeOk_inCap : (s.completeOk out).inCap = s.inCap := rfl
@[simp] theorem State.completeOk_outCap : (s.completeOk out).outCap = s.outCap := rfl
@[simp] theorem State.completeOk_cfg : (s.completeOk out).cfg = s.cfg := rfl
@[simp] theorem State.completeOk_inBuf : (s.completeOk out).inBuf = s.inBuf := rfl
@[simp] theorem State.completeOk_outBuf : (s.completeOk out).outBuf = memOfList out := rfl
@[simp] theorem State.completeOk_engine : (s.completeOk out).engine = .idle := rfl
@[simp] theorem State.completeOk_starts : (s.completeOk out).starts = s.starts := rfl
@[simp] theorem State.completeOk_script : (s.completeOk out).script = s.script := rfl
@[simp] theorem State.completeOk_reads : (s.completeOk out).reads = s.reads := rfl
end

section
variable (s : State) (c : ErrCode)
@[simp] theorem State.completeErr_cmd : (s.completeErr c).cmd = s.cmd := rfl
@[simp] theorem State.completeErr_done : (s.completeErr c).done = true := rfl
@[simp] theorem State.completeErr_err : (s.completeErr c).err = true := rfl
@[simp] theorem State.completeErr_errCode : (s.completeErr c).errCode = c.code := rfl
@[simp] theorem State.completeErr_inLen : (s.completeErr c).inLen = s.inLen := rfl
@[simp] theorem State.completeErr_outLen : (s.completeErr c).outLen = 0#32 := rfl
@[simp] theorem State.completeErr_inCap : (s.completeErr c).inCap = s.inCap := rfl
@[simp] theorem State.completeErr_outCap : (s.completeErr c).outCap = s.outCap := rfl
@[simp] theorem State.completeErr_cfg : (s.completeErr c).cfg = s.cfg := rfl
@[simp] theorem State.completeErr_inBuf : (s.completeErr c).inBuf = s.inBuf := rfl
@[simp] theorem State.completeErr_outBuf : (s.completeErr c).outBuf = [] := rfl
@[simp] theorem State.completeErr_engine : (s.completeErr c).engine = .idle := rfl
@[simp] theorem State.completeErr_starts : (s.completeErr c).starts = s.starts := rfl
@[simp] theorem State.completeErr_script : (s.completeErr c).script = s.script := rfl
@[simp] theorem State.completeErr_reads : (s.completeErr c).reads = s.reads := rfl
end

section
variable (s : State)
@[simp] theorem State.softReset_cmd : s.softReset.cmd = 0#16 := rfl
@[simp] theorem State.softReset_done : s.softReset.done = false := rfl
@[simp] theorem State.softReset_err : s.softReset.err = false := rfl
@[simp] theorem State.softReset_errCode : s.softReset.errCode = 0#4 := rfl
@[simp] theorem State.softReset_inLen : s.softReset.inLen = 0#32 := rfl
@[simp] theorem State.softReset_outLen : s.softReset.outLen = 0#32 := rfl
@[simp] theorem State.softReset_inCap : s.softReset.inCap = s.inCap := rfl
@[simp] theorem State.softReset_outCap : s.softReset.outCap = s.outCap := rfl
@[simp] theorem State.softReset_cfg : s.softReset.cfg = Cfg.reset := rfl
@[simp] theorem State.softReset_inBuf : s.softReset.inBuf = [] := rfl
@[simp] theorem State.softReset_outBuf : s.softReset.outBuf = [] := rfl
@[simp] theorem State.softReset_engine : s.softReset.engine = .idle := rfl
@[simp] theorem State.softReset_starts : s.softReset.starts = s.starts := rfl
@[simp] theorem State.softReset_script : s.softReset.script = s.script := rfl
@[simp] theorem State.softReset_reads : s.softReset.reads = s.reads := rfl
end

section
variable (s : State) (v : Word)
@[simp] theorem State.giveHost_cmd : (s.giveHost v).cmd = s.cmd := rfl
@[simp] theorem State.giveHost_done : (s.giveHost v).done = s.done := rfl
@[simp] theorem State.giveHost_err : (s.giveHost v).err = s.err := rfl
@[simp] theorem State.giveHost_errCode : (s.giveHost v).errCode = s.errCode := rfl
@[simp] theorem State.giveHost_inLen : (s.giveHost v).inLen = s.inLen := rfl
@[simp] theorem State.giveHost_outLen : (s.giveHost v).outLen = s.outLen := rfl
@[simp] theorem State.giveHost_inCap : (s.giveHost v).inCap = s.inCap := rfl
@[simp] theorem State.giveHost_outCap : (s.giveHost v).outCap = s.outCap := rfl
@[simp] theorem State.giveHost_cfg : (s.giveHost v).cfg = s.cfg := rfl
@[simp] theorem State.giveHost_inBuf : (s.giveHost v).inBuf = s.inBuf := rfl
@[simp] theorem State.giveHost_outBuf : (s.giveHost v).outBuf = s.outBuf := rfl
@[simp] theorem State.giveHost_engine : (s.giveHost v).engine = s.engine := rfl
@[simp] theorem State.giveHost_starts : (s.giveHost v).starts = s.starts := rfl
@[simp] theorem State.giveHost_script : (s.giveHost v).script = s.script := rfl
@[simp] theorem State.giveHost_reads : (s.giveHost v).reads = v :: s.reads := rfl
end

section
variable (s : State) (ops : List HostOp)
@[simp] theorem State.pushOps_cmd : (s.pushOps ops).cmd = s.cmd := rfl
@[simp] theorem State.pushOps_done : (s.pushOps ops).done = s.done := rfl
@[simp] theorem State.pushOps_err : (s.pushOps ops).err = s.err := rfl
@[simp] theorem State.pushOps_errCode : (s.pushOps ops).errCode = s.errCode := rfl
@[simp] theorem State.pushOps_inLen : (s.pushOps ops).inLen = s.inLen := rfl
@[simp] theorem State.pushOps_outLen : (s.pushOps ops).outLen = s.outLen := rfl
@[simp] theorem State.pushOps_inCap : (s.pushOps ops).inCap = s.inCap := rfl
@[simp] theorem State.pushOps_outCap : (s.pushOps ops).outCap = s.outCap := rfl
@[simp] theorem State.pushOps_cfg : (s.pushOps ops).cfg = s.cfg := rfl
@[simp] theorem State.pushOps_inBuf : (s.pushOps ops).inBuf = s.inBuf := rfl
@[simp] theorem State.pushOps_outBuf : (s.pushOps ops).outBuf = s.outBuf := rfl
@[simp] theorem State.pushOps_engine : (s.pushOps ops).engine = s.engine := rfl
@[simp] theorem State.pushOps_starts : (s.pushOps ops).starts = s.starts := rfl
@[simp] theorem State.pushOps_script : (s.pushOps ops).script = ops ++ s.script := rfl
@[simp] theorem State.pushOps_reads : (s.pushOps ops).reads = s.reads := rfl
end

section
variable (s : State) (w : CmdWord)
@[simp] theorem State.placeCommand_cmd : (s.placeCommand w).cmd = w := rfl
@[simp] theorem State.placeCommand_done : (s.placeCommand w).done = false := rfl
@[simp] theorem State.placeCommand_err : (s.placeCommand w).err = false := rfl
@[simp] theorem State.placeCommand_errCode : (s.placeCommand w).errCode = 0#4 := rfl
@[simp] theorem State.placeCommand_inLen : (s.placeCommand w).inLen = s.inLen := rfl
@[simp] theorem State.placeCommand_outLen : (s.placeCommand w).outLen = s.outLen := rfl
@[simp] theorem State.placeCommand_inCap : (s.placeCommand w).inCap = s.inCap := rfl
@[simp] theorem State.placeCommand_outCap : (s.placeCommand w).outCap = s.outCap := rfl
@[simp] theorem State.placeCommand_cfg : (s.placeCommand w).cfg = s.cfg := rfl
@[simp] theorem State.placeCommand_inBuf : (s.placeCommand w).inBuf = s.inBuf := rfl
@[simp] theorem State.placeCommand_outBuf : (s.placeCommand w).outBuf = s.outBuf := rfl
@[simp] theorem State.placeCommand_engine : (s.placeCommand w).engine = .busy (State.snapshot { s with cmd := w }) 0 := rfl
@[simp] theorem State.placeCommand_starts : (s.placeCommand w).starts = s.starts := rfl
@[simp] theorem State.placeCommand_script : (s.placeCommand w).script = s.script := rfl
@[simp] theorem State.placeCommand_reads : (s.placeCommand w).reads = s.reads := rfl
end

section
variable (s : State) (rest : List HostOp)
@[simp] theorem State.takeOp_cmd : (s.takeOp rest).cmd = s.cmd := rfl
@[simp] theorem State.takeOp_done : (s.takeOp rest).done = s.done := rfl
@[simp] theorem State.takeOp_err : (s.takeOp rest).err = s.err := rfl
@[simp] theorem State.takeOp_errCode : (s.takeOp rest).errCode = s.errCode := rfl
@[simp] theorem State.takeOp_inLen : (s.takeOp rest).inLen = s.inLen := rfl
@[simp] theorem State.takeOp_outLen : (s.takeOp rest).outLen = s.outLen := rfl
@[simp] theorem State.takeOp_inCap : (s.takeOp rest).inCap = s.inCap := rfl
@[simp] theorem State.takeOp_outCap : (s.takeOp rest).outCap = s.outCap := rfl
@[simp] theorem State.takeOp_cfg : (s.takeOp rest).cfg = s.cfg := rfl
@[simp] theorem State.takeOp_inBuf : (s.takeOp rest).inBuf = s.inBuf := rfl
@[simp] theorem State.takeOp_outBuf : (s.takeOp rest).outBuf = s.outBuf := rfl
@[simp] theorem State.takeOp_starts : (s.takeOp rest).starts = s.starts := rfl
@[simp] theorem State.takeOp_script : (s.takeOp rest).script = rest := rfl
@[simp] theorem State.takeOp_reads : (s.takeOp rest).reads = s.reads := rfl
end

/-- The operands of a BUSY engine are its latched copy. -/
theorem State.operands_busy {s : State} {l : Latched} {w : Nat} (h : s.engine = .busy l w) : s.operands = l := by
  simp [State.operands, h]

/-- The operands of an IDLE engine are what START would latch. -/
theorem State.operands_idle {s : State} (h : s.engine = .idle) : s.operands = s.snapshot := by
  simp [State.operands, h]

/-- A completed result, every field written out. -/
theorem State.completeOk_eq_finishedWith (s : State) (out : List Word) : s.completeOk out = s.finishedWith out := rfl

/-- A completed error, every field written out. -/
theorem State.completeErr_eq_endedWith (s : State) (c : ErrCode) : s.completeErr c = s.endedWith c.code := rfl

/-- BUSY of an IDLE engine. -/
theorem State.isBusy_idle {s : State} (h : s.engine = .idle) : s.isBusy = false := by simp [State.isBusy, h]

/-- BUSY of a BUSY engine. -/
theorem State.isBusy_busy {s : State} {l : Latched} {w : Nat} (h : s.engine = .busy l w) : s.isBusy = true := by
  simp [State.isBusy, h]

/-- An engine that is not BUSY is IDLE. -/
theorem State.engine_of_not_busy {s : State} (h : s.isBusy = false) : s.engine = .idle := by
  unfold State.isBusy at h
  split at h
  · assumption
  · cases h

@[simp] theorem State.takeOp_engine (s : State) (rest : List HostOp) : (s.takeOp rest).engine = s.engine.tick := rfl

@[simp] theorem Engine.tick_idle : Engine.idle.tick = .idle := rfl

@[simp] theorem Engine.tick_busy (l : Latched) (w : Nat) : (Engine.busy l w).tick = .busy l (w - 1) := rfl

@[simp] theorem State.takeOp_isBusy (s : State) (rest : List HostOp) : (s.takeOp rest).isBusy = s.isBusy := by
  unfold State.isBusy
  rw [State.takeOp_engine]
  cases s.engine <;> rfl

/-- The snapshot reads the command, the configuration, the length and IN, and nothing else. -/
theorem State.snapshot_congr {s t : State} (hc : t.cmd = s.cmd) (hf : t.cfg = s.cfg) (hl : t.inLen = s.inLen)
    (hi : t.inBuf = s.inBuf) : t.snapshot = s.snapshot := by
  simp [State.snapshot, hc, hf, hl, hi]

/-- Every error code lies in 1 to 12 (60_exceptions.md R257). -/
theorem ErrCode.code_range (c : ErrCode) : 1 ≤ c.code.toNat ∧ c.code.toNat ≤ 12 := by cases c <;> decide

end Sys2Proof.Machine
end

