-- ==== Sys2Proof/Laws/Memory.lean ====
section
/-! SUPPORT. The buffers: what reads give after writes, and that every buffer operation keeps the canonical form. -/

namespace Sys2Proof.Machine

@[simp] theorem memRead_nil (i : Nat) : memRead [] i = none := rfl

theorem memRead_cons (j : Nat) (v : Word) (m : Memory) (i : Nat) :
    memRead ((j, v) :: m) i = if i = j then some v else memRead m i := rfl

/-- An element below every listed index is unwritten. -/
theorem memRead_of_below {m : Memory} {i : Nat} (h : ∀ c ∈ m, i < c.1) : memRead m i = none := by
  induction m with
  | nil => rfl
  | cons c m ih =>
    obtain ⟨j, v⟩ := c
    have hj : i < j := h (j, v) (by simp)
    rw [memRead_cons, if_neg (by omega)]
    exact ih fun c hc => h c (by simp [hc])

/-- A read after a write of the same element gives the value written. -/
@[simp] theorem memRead_memWrite_same (m : Memory) (i : Nat) (v : Word) : memRead (memWrite m i v) i = some v := by
  induction m with
  | nil => simp [memWrite, memRead_cons]
  | cons c m ih =>
    obtain ⟨j, u⟩ := c
    simp only [memWrite]
    split
    · simp [memRead_cons]
    · split
      · simp [memRead_cons]
      · rename_i h; rw [memRead_cons, if_neg h, ih]

/-- A write leaves every other element as it was. -/
theorem memRead_memWrite_other (m : Memory) {i k : Nat} (v : Word) (h : k ≠ i) :
    memRead (memWrite m i v) k = memRead m k := by
  induction m with
  | nil => simp [memWrite, memRead_cons, h]
  | cons c m ih =>
    obtain ⟨j, u⟩ := c
    simp only [memWrite]
    split
    · rw [memRead_cons, if_neg h]
    · split
      · rename_i hij; subst hij; simp [memRead_cons, h]
      · rw [memRead_cons, memRead_cons, ih]

/-- The indices a write lists are the written one and those listed before. -/
theorem mem_memWrite {m : Memory} {i : Nat} {v : Word} {c : Nat × Word} (h : c ∈ memWrite m i v) :
    c = (i, v) ∨ c ∈ m := by
  induction m with
  | nil => simpa [memWrite] using h
  | cons d m ih =>
    obtain ⟨j, u⟩ := d
    simp only [memWrite] at h
    split at h
    · simpa using h
    · split at h
      · rcases List.mem_cons.1 h with h | h
        · exact .inl h
        · exact .inr (by simp [h])
      · rcases List.mem_cons.1 h with h | h
        · exact .inr (by simp [h])
        · rcases ih h with h | h
          · exact .inl h
          · exact .inr (by simp [h])

/-- A write keeps the canonical form. -/
theorem memWrite_wf {m : Memory} (h : m.wf) (i : Nat) (v : Word) : (memWrite m i v).wf := by
  induction m with
  | nil => simp [memWrite, Memory.wf]
  | cons c m ih =>
    obtain ⟨j, u⟩ := c
    have hc := List.pairwise_cons.1 h
    simp only [memWrite]
    split
    · rename_i hij
      refine List.pairwise_cons.2 ⟨fun d hd => ?_, h⟩
      rcases List.mem_cons.1 hd with rfl | hd
      · exact hij
      · exact Nat.lt_trans hij (hc.1 d hd)
    · split
      · rename_i hij; subst hij
        exact List.pairwise_cons.2 ⟨hc.1, hc.2⟩
      · rename_i h1 h2
        refine List.pairwise_cons.2 ⟨fun d hd => ?_, ih hc.2⟩
        rcases mem_memWrite hd with rfl | hd
        · show j < i; omega
        · exact hc.1 d hd

/-- The part of a buffer below an index keeps the canonical form. -/
theorem memBelow_wf {m : Memory} (h : m.wf) (n : Nat) : (memBelow m n).wf := List.Pairwise.filter _ h

/-- The part of a buffer below an index reads as the buffer there. -/
theorem memRead_memBelow (m : Memory) {n i : Nat} (h : i < n) : memRead (memBelow m n) i = memRead m i := by
  induction m with
  | nil => rfl
  | cons c m ih =>
    obtain ⟨j, v⟩ := c
    unfold memBelow at ih ⊢
    by_cases hj : j < n
    · simp [hj, memRead_cons, ih]
    · simp [hj, memRead_cons, ih, show i ≠ j by omega]

/-- The indices of a buffer made from a list lie at or above its start. -/
theorem mem_memFrom {i : Nat} {vs : List Word} {c : Nat × Word} (h : c ∈ memFrom i vs) :
    i ≤ c.1 ∧ c.1 < i + vs.length := by
  induction vs generalizing i with
  | nil => simp [memFrom] at h
  | cons v vs ih =>
    rcases List.mem_cons.1 h with rfl | h
    · simp
    · have := ih h; simp only [List.length_cons]; omega

/-- A buffer made from a list has the canonical form. -/
theorem memFrom_wf (i : Nat) (vs : List Word) : (memFrom i vs).wf := by
  induction vs generalizing i with
  | nil => exact List.Pairwise.nil
  | cons v vs ih => exact List.pairwise_cons.2 ⟨fun c hc => (mem_memFrom hc).1, ih _⟩

theorem memOfList_wf (vs : List Word) : (memOfList vs).wf := memFrom_wf 0 vs

/-- Element `i + k` of a buffer made from a list is the k-th value. -/
theorem memRead_memFrom (i k : Nat) (vs : List Word) : memRead (memFrom i vs) (i + k) = vs[k]? := by
  induction vs generalizing i k with
  | nil => simp [memFrom]
  | cons v vs ih =>
    rw [memFrom, memRead_cons]
    cases k with
    | zero => simp
    | succ k =>
      rw [if_neg (by omega), show i + (k + 1) = i + 1 + k by omega, ih]
      rfl

/-- Element k of a buffer made from a list is the k-th value, and beyond the list it is unwritten. -/
@[simp] theorem memRead_memOfList (vs : List Word) (k : Nat) : memRead (memOfList vs) k = vs[k]? := by
  have := memRead_memFrom 0 k vs
  simpa [memOfList] using this

/-- The power-on buffers have the canonical form. -/
theorem reset_memory_wf : State.reset.inBuf.wf ∧ State.reset.outBuf.wf := ⟨List.Pairwise.nil, List.Pairwise.nil⟩

/-- A range of elements that are all written reads as their values. -/
theorem memReadRange_eq_some {m : Memory} {i : Nat} {vs : List Word}
    (h : ∀ j v, vs[j]? = some v → memRead m (i + j) = some v) : memReadRange m i vs.length = some vs := by
  induction vs generalizing i with
  | nil => rfl
  | cons v vs ih =>
    have h0 : memRead m i = some v := h 0 v rfl
    have ht : memReadRange m (i + 1) vs.length = some vs :=
      ih fun j u hj => by rw [show i + 1 + j = i + (j + 1) by omega]; exact h (j + 1) u (by simpa using hj)
    simp [memReadRange, h0, ht]

/-- A range read with success gives that many values, each the element at its index. -/
theorem memReadRange_spec {m : Memory} {i n : Nat} {vs : List Word} (h : memReadRange m i n = some vs) :
    vs.length = n ∧ ∀ j v, vs[j]? = some v → memRead m (i + j) = some v := by
  induction n generalizing i vs with
  | zero => simp [memReadRange] at h; subst h; simp
  | succ n ih =>
    rw [memReadRange] at h
    split at h
    · rename_i v us hv hus
      cases h
      obtain ⟨hl, hr⟩ := ih hus
      refine ⟨by simp [hl], fun j u hj => ?_⟩
      cases j with
      | zero => simp at hj; subst hj; exact hv
      | succ j => rw [show i + (j + 1) = i + 1 + j by omega]; exact hr j u (by simpa using hj)
    · cases h

/-- A range read that fails has an unwritten element in it. -/
theorem memReadRange_none {m : Memory} {i n : Nat} (h : memReadRange m i n = none) :
    ∃ j < n, memRead m (i + j) = none := by
  induction n generalizing i with
  | zero => simp [memReadRange] at h
  | succ n ih =>
    by_cases hv : memRead m i = none
    · exact ⟨0, by omega, hv⟩
    · obtain ⟨v, hv⟩ := Option.ne_none_iff_exists'.1 hv
      have ht : memReadRange m (i + 1) n = none := by
        cases h' : memReadRange m (i + 1) n with
        | none => rfl
        | some us => simp [memReadRange, hv, h'] at h
      obtain ⟨j, hj, hr⟩ := ih ht
      exact ⟨j + 1, by omega, by rw [show i + (j + 1) = i + 1 + j by omega]; exact hr⟩

end Sys2Proof.Machine
end

