-- ==== Sys2Proof/Laws/Command.lean ====
section
/-! SUPPORT. What the one path every command takes can do (60_exceptions.md R253), and what each command is on it. -/

namespace Sys2Proof.Machine

section
variable {α β : Type} (read : Word → α) (write : β → Word) (rule : Cfg → List α → Except ErrCode (List β))
variable {s : State}

/-- An input length above IN_CAP ends the command with BufferOverflow. -/
theorem runCommand_over_capacity (h : s.inCap < s.operands.inLen.toNat) :
    runCommand read write rule s = .next (s.completeErr .bufferOverflow) := by
  simp [runCommand, h]

/-- On input that is all there, a command completes with what its rule gives, cut to the output capacity. -/
theorem runCommand_of_hasInput {es : List Word} (h : s.HasInput es) :
    runCommand read write rule s =
      .next (s.complete (capOutput s.outCap write (rule s.operands.cfg (es.map read)))) := by
  have hr : memReadRange s.operands.input 0 es.length = some es :=
    memReadRange_eq_some fun j v hj => by simpa using h.written j v hj
  have hn : ¬ s.inCap < s.operands.inLen.toNat := by have := h.fits; rw [h.length]; omega
  unfold runCommand
  rw [if_neg hn, h.length, hr]

/-- A rule that gives an output within the capacity: the command's next state, every field written out. -/
theorem runCommand_ok {es : List Word} {out : List β} (h : s.HasInput es)
    (hr : rule s.operands.cfg (es.map read) = .ok out) (hc : out.length ≤ s.outCap) :
    runCommand read write rule s = .next (s.finishedWith (out.map write)) := by
  rw [runCommand_of_hasInput read write rule h, hr]
  simp [capOutput, State.complete, Nat.not_lt.2 hc, State.completeOk_eq_finishedWith]

/-- A rule that raises an error: the command's next state, every field written out. -/
theorem runCommand_error {es : List Word} {c : ErrCode} (h : s.HasInput es)
    (hr : rule s.operands.cfg (es.map read) = .error c) :
    runCommand read write rule s = .next (s.endedWith c.code) := by
  rw [runCommand_of_hasInput read write rule h, hr]
  rfl

/-- A rule whose output is longer than OUT_CAP: BufferOverflow. -/
theorem runCommand_too_long {es : List Word} {out : List β} (h : s.HasInput es)
    (hr : rule s.operands.cfg (es.map read) = .ok out) (hc : s.outCap < out.length) :
    runCommand read write rule s = .next (s.endedWith ErrCode.bufferOverflow.code) := by
  rw [runCommand_of_hasInput read write rule h, hr]
  simp [capOutput, State.complete, hc, State.completeErr_eq_endedWith]

/-- Everything the path can do: a fault for an unwritten element among the first IN_LEN, or a completion with an
error or with at most OUT_CAP elements. -/
theorem runCommand_cases :
    (runCommand read write rule s = .fault .unwrittenRead ∧ s.operands.inLen.toNat ≤ s.inCap
        ∧ ∃ j < s.operands.inLen.toNat, memRead s.operands.input j = none)
      ∨ (∃ c, runCommand read write rule s = .next (s.completeErr c))
      ∨ (∃ out : List Word, out.length ≤ s.outCap ∧ runCommand read write rule s = .next (s.completeOk out)) := by
  unfold runCommand
  by_cases hl : s.inCap < s.operands.inLen.toNat
  · exact .inr (.inl ⟨_, by rw [if_pos hl]⟩)
  · simp only [if_neg hl]
    cases hr : memReadRange s.operands.input 0 s.operands.inLen.toNat with
    | none =>
      obtain ⟨j, hj, hn⟩ := memReadRange_none hr
      exact .inl ⟨rfl, by omega, j, hj, by simpa using hn⟩
    | some es =>
      refine .inr ?_
      simp only [capOutput, State.complete]
      cases rule s.operands.cfg (es.map read) with
      | error c => exact .inl ⟨c, rfl⟩
      | ok out =>
        by_cases hc : s.outCap < out.length
        · exact .inl ⟨.bufferOverflow, by simp [hc]⟩
        · exact .inr ⟨out.map write, by simpa using Nat.not_lt.1 hc, by simp [hc]⟩

end

/-- Everything EXEC of any command can do (60_exceptions.md R250, R253, R262). -/
theorem exec_cases (i : Instr) (s : State) :
    (exec i s = .fault .unwrittenRead ∧ s.operands.inLen.toNat ≤ s.inCap
        ∧ ∃ j < s.operands.inLen.toNat, memRead s.operands.input j = none)
      ∨ (∃ c, exec i s = .next (s.completeErr c))
      ∨ (∃ out : List Word, out.length ≤ s.outCap ∧ exec i s = .next (s.completeOk out)) := by
  cases i with
  | lcUnknown v d => exact .inr (.inl ⟨_, rfl⟩)
  | pbUnknown v d => exact .inr (.inl ⟨_, rfl⟩)
  | illegal w => exact .inr (.inl ⟨_, rfl⟩)
  | _ =>
    simp only [exec, execB2bits, execBits2b, execFrmNoneEnc, execFrmNoneDec, execFrmLpEnc, execFrmLpDec, execFrmBysEnc,
      execFrmBysDec, execFrmBisEnc, execFrmBisDec, execFrmPass, execEcNoneEnc, execEcNoneDec, execParEnc, execParChk,
      execCsumEnc, execCsumChk, execCrcGen, execCrcChk, execHamEnc, execHamDec, execHam84Enc, execHam84Dec, execEcPass,
      execNrzEnc, execNrzDec, execManEnc, execManDec, execAmiEnc, execAmiDec, execAskMod, execAskDem, execFskMod,
      execFskDem, execQpskMod, execQpskDem, execQam16Mod, execQam16Dem]
    exact runCommand_cases _ _ _

end Sys2Proof.Machine
end

