-- ==== Sys2Proof/Laws/HostPort.lean ====
section
/-! SUPPORT. What the host's operations can do: one statement per shared operation. -/

namespace Sys2Proof.Machine

/-- What a successful host read of a buffer needs. -/
theorem hostBufRead_ok {cap : Nat} {m : Memory} {i : Nat} {s : State} {v : Word}
    (h : hostBufRead cap m i s = .ok v) : s.isBusy = false ∧ i < cap ∧ memRead m i = some v := by
  unfold hostBufRead at h
  split at h
  · cases h
  · split at h
    · cases h
    · split at h
      · cases h
      · rename_i hb hc _ u hu
        cases h
        exact ⟨by simpa using hb, by omega, hu⟩

/-- What a write of a register can do: START, SOFT_RESET, a change of CMD, IN_LEN or the configuration, or nothing. -/
theorem writeReg_cases (s : State) (v : Word) (r : Reg) :
    s.writeReg v r = s.start ∨ s.writeReg v r = s.softReset
      ∨ ∃ cmd inLen cfg, s.writeReg v r = { s with cmd := cmd, inLen := inLen, cfg := cfg } := by
  cases r with
  | ctrl =>
    by_cases h1 : v.getLsbD 1 = true
    · exact .inr (.inl (by simp only [State.writeReg, State.writeCtrl, h1, if_true]))
    · by_cases h0 : v.getLsbD 0 = true
      · exact .inl (by simp only [State.writeReg, State.writeCtrl, h1, h0, if_true]; rfl)
      · exact .inr (.inr ⟨s.cmd, s.inLen, s.cfg, by simp only [State.writeReg, State.writeCtrl, h1, h0]; rfl⟩)
  | _ => exact .inr (.inr ⟨_, _, _, rfl⟩)

/-- Everything a host operation that answers next can do: a write while IDLE, or only a change of what the host holds
(its reads and its script). -/
theorem hostOp_next {op : HostOp} {s t : State} (h : hostOp op s = .next t) :
    (s.isBusy = false ∧ ∃ v r, t = s.writeReg v r)
      ∨ (s.isBusy = false ∧ ∃ i v, i < s.inCap ∧ t = { s with inBuf := memWrite s.inBuf i v })
      ∨ ∃ script reads, t = { s with script := script, reads := reads } := by
  cases op with
  | regWrite offset width v =>
    simp only [hostOp, hostRegWrite] at h
    split at h
    · cases h
    · split at h
      · cases h
      · rename_i hb _; cases h; exact .inl ⟨by simpa using hb, v, regAt offset, rfl⟩
  | regRead offset width =>
    simp only [hostOp, hostRegRead] at h
    split at h
    · cases h
    · cases h; exact .inr (.inr ⟨_, _, rfl⟩)
  | inWrite i v =>
    simp only [hostOp, hostInWrite] at h
    split at h
    · cases h
    · split at h
      · cases h
      · rename_i hb hc; cases h; exact .inr (.inl ⟨by simpa using hb, i, v, by omega, rfl⟩)
  | inRead i =>
    simp only [hostOp, hostInRead] at h
    split at h
    · cases h
    · cases h; exact .inr (.inr ⟨_, _, rfl⟩)
  | outWrite i v =>
    simp only [hostOp, hostOutWrite] at h
    split at h <;> cases h
  | outRead i =>
    simp only [hostOp, hostOutRead] at h
    split at h
    · cases h
    · cases h; exact .inr (.inr ⟨_, _, rfl⟩)
  | wait =>
    simp only [hostOp, hostWait] at h
    split at h <;> cases h
    · exact .inr (.inr ⟨_, _, rfl⟩)
    · exact .inr (.inr ⟨_, _, rfl⟩)
  | chain => cases h; exact .inr (.inr ⟨_, _, rfl⟩)
  | copy i =>
    simp only [hostOp, hostCopy] at h
    split at h
    · cases h
    · cases h; exact .inr (.inr ⟨_, _, rfl⟩)

/-- No host operation is refused. -/
theorem hostOp_not_refused (op : HostOp) (s : State) (r : Refusal) : hostOp op s ≠ .refused r := by
  intro h
  cases op <;> simp only [hostOp, hostRegWrite, hostRegRead, hostInWrite, hostInRead, hostOutWrite, hostOutRead,
    hostWait, hostChain, hostCopy] at h <;> repeat' (first | cases h | split at h)

end Sys2Proof.Machine
end

