-- ==== Sys2Proof/Laws/PerInstr.lean ====
section
/-! SUPPORT. Per-command laws: the only well-formed commands whose words are illegal are the ILLEGAL ones
(30_encoding.md R82). -/

namespace Sys2Proof.Laws

/-- A well-formed command encodes to an illegal word exactly when it is ILLEGAL. -/
def LegalWord.Statement (i : Instr) : Prop :=
  i.wellFormed = true → (isIllegalWord (encode i) = true ↔ ∃ w, i = .illegal w)

/-- The word of a selector command is legal in FAMILY 1 to 4. -/
theorem cmdWordOf_legal (family variant : BitVec 4) (d : Dir) (h : 1 ≤ family.toNat ∧ family.toNat ≤ 4) :
    isIllegalWord (cmdWordOf family variant d) = false := by
  revert h
  cases d <;> (revert family variant; decide +kernel)

theorem LegalWord.b2bits : LegalWord.Statement .b2bits := by
  intro _; simp [encode, isIllegalWord]

theorem LegalWord.bits2b : LegalWord.Statement .bits2b := by
  intro _; simp [encode, isIllegalWord]

theorem LegalWord.frmNoneEnc : LegalWord.Statement .frmNoneEnc := by
  intro _; simp [encode, isIllegalWord]

theorem LegalWord.frmNoneDec : LegalWord.Statement .frmNoneDec := by
  intro _; simp [encode, isIllegalWord]

theorem LegalWord.frmLpEnc : LegalWord.Statement .frmLpEnc := by
  intro _; simp [encode, isIllegalWord]

theorem LegalWord.frmLpDec : LegalWord.Statement .frmLpDec := by
  intro _; simp [encode, isIllegalWord]

theorem LegalWord.frmBysEnc : LegalWord.Statement .frmBysEnc := by
  intro _; simp [encode, isIllegalWord]

theorem LegalWord.frmBysDec : LegalWord.Statement .frmBysDec := by
  intro _; simp [encode, isIllegalWord]

theorem LegalWord.frmBisEnc : LegalWord.Statement .frmBisEnc := by
  intro _; simp [encode, isIllegalWord]

theorem LegalWord.frmBisDec : LegalWord.Statement .frmBisDec := by
  intro _; simp [encode, isIllegalWord]

theorem LegalWord.frmPass (variant : BitVec 4) (dir : Dir) : LegalWord.Statement (.frmPass variant dir) := by
  intro _
  simp [encode, cmdWordOf_legal]

theorem LegalWord.ecNoneEnc : LegalWord.Statement .ecNoneEnc := by
  intro _; simp [encode, isIllegalWord]

theorem LegalWord.ecNoneDec : LegalWord.Statement .ecNoneDec := by
  intro _; simp [encode, isIllegalWord]

theorem LegalWord.parEnc : LegalWord.Statement .parEnc := by
  intro _; simp [encode, isIllegalWord]

theorem LegalWord.parChk : LegalWord.Statement .parChk := by
  intro _; simp [encode, isIllegalWord]

theorem LegalWord.csumEnc : LegalWord.Statement .csumEnc := by
  intro _; simp [encode, isIllegalWord]

theorem LegalWord.csumChk : LegalWord.Statement .csumChk := by
  intro _; simp [encode, isIllegalWord]

theorem LegalWord.crcGen : LegalWord.Statement .crcGen := by
  intro _; simp [encode, isIllegalWord]

theorem LegalWord.crcChk : LegalWord.Statement .crcChk := by
  intro _; simp [encode, isIllegalWord]

theorem LegalWord.hamEnc : LegalWord.Statement .hamEnc := by
  intro _; simp [encode, isIllegalWord]

theorem LegalWord.hamDec : LegalWord.Statement .hamDec := by
  intro _; simp [encode, isIllegalWord]

theorem LegalWord.ham84Enc : LegalWord.Statement .ham84Enc := by
  intro _; simp [encode, isIllegalWord]

theorem LegalWord.ham84Dec : LegalWord.Statement .ham84Dec := by
  intro _; simp [encode, isIllegalWord]

theorem LegalWord.ecPass (variant : BitVec 4) (dir : Dir) : LegalWord.Statement (.ecPass variant dir) := by
  intro _
  simp [encode, cmdWordOf_legal]

theorem LegalWord.nrzEnc : LegalWord.Statement .nrzEnc := by
  intro _; simp [encode, isIllegalWord]

theorem LegalWord.nrzDec : LegalWord.Statement .nrzDec := by
  intro _; simp [encode, isIllegalWord]

theorem LegalWord.manEnc : LegalWord.Statement .manEnc := by
  intro _; simp [encode, isIllegalWord]

theorem LegalWord.manDec : LegalWord.Statement .manDec := by
  intro _; simp [encode, isIllegalWord]

theorem LegalWord.amiEnc : LegalWord.Statement .amiEnc := by
  intro _; simp [encode, isIllegalWord]

theorem LegalWord.amiDec : LegalWord.Statement .amiDec := by
  intro _; simp [encode, isIllegalWord]

theorem LegalWord.lcUnknown (variant : BitVec 4) (dir : Dir) : LegalWord.Statement (.lcUnknown variant dir) := by
  intro _
  simp [encode, cmdWordOf_legal]

theorem LegalWord.askMod : LegalWord.Statement .askMod := by
  intro _; simp [encode, isIllegalWord]

theorem LegalWord.askDem : LegalWord.Statement .askDem := by
  intro _; simp [encode, isIllegalWord]

theorem LegalWord.fskMod : LegalWord.Statement .fskMod := by
  intro _; simp [encode, isIllegalWord]

theorem LegalWord.fskDem : LegalWord.Statement .fskDem := by
  intro _; simp [encode, isIllegalWord]

theorem LegalWord.qpskMod : LegalWord.Statement .qpskMod := by
  intro _; simp [encode, isIllegalWord]

theorem LegalWord.qpskDem : LegalWord.Statement .qpskDem := by
  intro _; simp [encode, isIllegalWord]

theorem LegalWord.qam16Mod : LegalWord.Statement .qam16Mod := by
  intro _; simp [encode, isIllegalWord]

theorem LegalWord.qam16Dem : LegalWord.Statement .qam16Dem := by
  intro _; simp [encode, isIllegalWord]

theorem LegalWord.pbUnknown (variant : BitVec 4) (dir : Dir) : LegalWord.Statement (.pbUnknown variant dir) := by
  intro _
  simp [encode, cmdWordOf_legal]

theorem LegalWord.illegal (word : CmdWord) : LegalWord.Statement (.illegal word) :=
  fun h => ⟨fun _ => ⟨word, rfl⟩, fun _ => h⟩

end Sys2Proof.Laws
end

