-- ==== Sys2Proof/Laws/Sequences.lean ====
section
/-! SUPPORT. The sequence helpers the command rules share: lengths, and what element j of their result is. -/

namespace Sys2Proof.Machine

/-- A byte gives eight bits (40_bitvector.md R100). -/
@[simp] theorem byteBits_length (b : Byte) : (byteBits b).length = 8 := rfl

@[simp] theorem bits_nil : bits [] = [] := rfl

@[simp] theorem bits_cons (b : Byte) (bs : List Byte) : bits (b :: bs) = byteBits b ++ bits bs := rfl

@[simp] theorem bits_append (as bs : List Byte) : bits (as ++ bs) = bits as ++ bits bs := List.flatMap_append

@[simp] theorem bits_length (bs : List Byte) : (bits bs).length = 8 * bs.length := by
  induction bs with
  | nil => rfl
  | cons b bs ih => simp only [bits_cons, List.length_append, byteBits_length, List.length_cons, ih]; omega

/-- Groups of eight bits: one byte for each whole group (20_memory.md R59). -/
theorem groupBytes_length (bt : List Bit) : (groupBytes bt).length = bt.length / 8 := by
  induction bt using groupBytes.induct with
  | case1 b7 b6 b5 b4 b3 b2 b1 b0 rest ih => simp only [groupBytes, List.length_cons, ih]; omega
  | case2 bt h =>
    have hlt : bt.length < 8 := by
      match bt, h with
      | b7 :: b6 :: b5 :: b4 :: b3 :: b2 :: b1 :: b0 :: rest, h => exact absurd rfl (h b7 b6 b5 b4 b3 b2 b1 b0 rest)
      | [], _ | [_], _ | [_, _], _ | [_, _, _], _ | [_, _, _, _], _ | [_, _, _, _, _], _ | [_, _, _, _, _, _], _
      | [_, _, _, _, _, _, _], _ => simp
    rw [groupBytes, Nat.div_eq_of_lt hlt]
    · rfl
    · exact h

/-- Padding reaches the next multiple of g. -/
theorem padBits_length {g : Nat} (hg : 0 < g) (bt : List Bit) :
    (padBits g bt).length = (bt.length + g - 1) / g * g := by
  simp only [padBits, List.length_append, List.length_replicate]
  obtain ⟨q, r, hr, hn⟩ : ∃ q r, r < g ∧ bt.length = g * q + r :=
    ⟨bt.length / g, bt.length % g, Nat.mod_lt _ hg, (Nat.div_add_mod _ _).symm⟩
  rw [hn, Nat.mul_add_mod, Nat.mod_eq_of_lt hr]
  rcases Nat.eq_zero_or_pos r with rfl | h
  · rw [Nat.sub_zero, Nat.mod_self, show g * q + 0 + g - 1 = g * q + (g - 1) by omega, Nat.mul_add_div hg,
      Nat.div_eq_of_lt (by omega), Nat.add_zero, Nat.mul_comm]
    rfl
  · rw [Nat.mod_eq_of_lt (by omega), show g * q + r + g - 1 = g * (q + 1) + (r - 1) by rw [Nat.mul_add]; omega,
      Nat.mul_add_div hg, Nat.div_eq_of_lt (by omega), Nat.add_zero, Nat.add_mul, Nat.mul_comm g q]
    omega

/-- Bits give their number divided by eight, rounded up, in bytes (40_bitvector.md R102). -/
@[simp] theorem bytes_length (bt : List Bit) : (bytes bt).length = (bt.length + 7) / 8 := by
  rw [bytes, groupBytes_length, padBits_length (by decide)]
  omega

/-- The number of whole blocks (43_line_coding.md R190). -/
@[simp] theorem chunks_length {α : Type} (s : Nat) (xs : List α) : (chunks s xs).length = xs.length / s := by
  simp [chunks]

/-- Block j is the s elements from index j·s on (43_line_coding.md R190). -/
theorem chunks_getElem? {α : Type} {s j : Nat} {xs : List α} (h : j < xs.length / s) :
    (chunks s xs)[j]? = some ((xs.drop (j * s)).take s) := by
  simp [chunks, h]

/-- Every block has exactly s elements. -/
theorem length_of_mem_chunks {α : Type} {s : Nat} {xs blk : List α} (h : blk ∈ chunks s xs) : blk.length = s := by
  obtain ⟨j, hj, rfl⟩ := List.mem_map.1 h
  have hj : j < xs.length / s := List.mem_range.1 hj
  have hs : 0 < s := Nat.pos_of_ne_zero fun h0 => by rw [h0, Nat.div_zero] at hj; omega
  have : (j + 1) * s ≤ xs.length := (Nat.le_div_iff_mul_le hs).1 hj
  rw [Nat.add_mul] at this
  simp only [List.length_take, List.length_drop]
  omega

/-- The reference wave of an interval has s samples (44_passband.md R210). -/
@[simp] theorem carrier_length (wave : F64 → F64) (s f : Nat) : (carrier wave s f).length = s := by simp [carrier]

/-- The trailer's length (42_error_control.md R151). -/
@[simp] theorem crcField_length (c width : Nat) : (crcField c width).length = (width + 7) / 8 := by
  simp [crcField, crcBytes]

/-- An encoded block has n = k + p bits (42_error_control.md R158, R159). -/
theorem hamPlace_length (qs : List Nat) (d : List Bit) : (hamPlace qs d).length = qs.length := by
  induction qs generalizing d with
  | nil => rfl
  | cons q qs ih => simp only [hamPlace]; split <;> simp [ih]

@[simp] theorem hamEncodeBlock_length (k : Nat) (d : List Bit) : (hamEncodeBlock k d).length = hamBlockBits k := by
  simp [hamEncodeBlock, hamPlace_length, blockPositions]

/-- The sum from left to right, one more value at the end (00_scope.md R10). -/
@[simp] theorem sumf_append_singleton (xs : List F64) (x : F64) : sumf (xs ++ [x]) = fadd (sumf xs) x := by
  simp [sumf]

@[simp] theorem sumf_nil : sumf [] = fPosZero := rfl

/-- A comparison with a NaN is false (00_scope.md R10). -/
theorem flt_of_isNan {a b : F64} (h : isNan a = true ∨ isNan b = true) : flt a b = false := by
  rcases h with h | h <;> simp [flt, h]

/-- What step 6 of the order of checks does to a result (60_exceptions.md R253, R256). -/
theorem capOutput_ok {β : Type} {cap : Nat} {write : β → Word} {out : List β} :
    capOutput cap write (.ok out) = if cap < out.length then .error .bufferOverflow else .ok (out.map write) := rfl

@[simp] theorem capOutput_error {β : Type} {cap : Nat} {write : β → Word} {c : ErrCode} :
    capOutput cap write (.error c) = .error c := rfl

end Sys2Proof.Machine
end

