-- ==== Sys2Proof/Laws/Step.lean ====
section
/-! SUPPORT. What one step can do, said once. -/

namespace Sys2Proof.Machine

/-- The engine's turn names the latched command word. -/
theorem engineTurn_some {s : State} {w : CmdWord} (h : engineTurn s = some w) :
    ∃ l wait, s.engine = .busy l wait ∧ l.cmd = w := by
  unfold engineTurn at h
  split at h
  · cases h
  · rename_i l he; cases h; exact ⟨l, 0, he, rfl⟩
  · rename_i l n he
    split at h
    · cases h; exact ⟨l, _, he, rfl⟩
    · cases h

/-- An IDLE engine has no turn. -/
theorem engineTurn_idle {s : State} (h : s.engine = .idle) : engineTurn s = none := by
  simp [engineTurn, h]

/-- Everything a step that answers next can do: EXEC of the latched command, a host operation, or nothing when the
engine is IDLE and the host has nothing to do. -/
theorem step_next {s t : State} (h : step s = .next t) :
    (∃ l wait, s.engine = .busy l wait ∧ exec (decode l.cmd) s = .next t)
      ∨ (∃ op rest, s.script = op :: rest ∧ hostOp op (s.takeOp rest) = .next t)
      ∨ t = s := by
  unfold step at h
  split at h
  · rename_i w hw
    obtain ⟨l, wait, he, rfl⟩ := engineTurn_some hw
    exact .inl ⟨l, wait, he, h⟩
  · unfold hostTurn at h
    split at h
    · cases h; exact .inr (.inr rfl)
    · rename_i op rest hs; exact .inr (.inl ⟨op, rest, hs, h⟩)

/-- No step is refused. -/
theorem step_not_refused (s : State) (r : Refusal) : step s ≠ .refused r := by
  unfold step
  split
  · rename_i w _
    rcases exec_cases (decode w) s with ⟨h, _⟩ | ⟨c, h⟩ | ⟨out, _, h⟩ <;> rw [h] <;> exact fun hc => nomatch hc
  · unfold hostTurn
    split
    · exact fun hc => nomatch hc
    · exact hostOp_not_refused _ _ _

end Sys2Proof.Machine
end

