-- ==== Sys2Proof/Tests/Slice0.lean ====
section
/-! SUPPORT. Tests of the model. Every expected result is a vector of 95_test_vectors.md or of the rule named, not a run
of this model. A command is tested by one step from a state in which it has just been started. Then, for each obligation
with hypotheses, a witness that meets them. -/

namespace Sys2Proof.Tests

-- One test after the other: each kernel evaluation would otherwise wait in a thread of its own.
set_option Elab.async false

open Sys2Proof.Machine

/-! ## Helpers -/

/-- An IDLE block with these capacities and configuration, with `es` in IN and IN_LEN, `out` in OUT and OUT_LEN, and
a host about to do `script`. -/
def ready (inCap outCap : Nat) (cfg : Cfg) (es out : List Word) (script : List HostOp) : State where
  cmd := 0x0000#16
  done := true
  err := false
  errCode := 0#4
  inLen := BitVec.ofNat 32 es.length
  outLen := BitVec.ofNat 32 out.length
  inCap := inCap
  outCap := outCap
  cfg := cfg
  inBuf := memOfList es
  outBuf := memOfList out
  engine := .idle
  starts := 0
  script := script
  reads := []

/-- The same block when command word `w` has just been started on it. -/
def loaded (inCap outCap : Nat) (cfg : Cfg) (w : CmdWord) (es : List Word) : State :=
  (ready inCap outCap cfg es [] []).placeCommand w

/-- What the host sees after a step: STATUS, OUT_LEN and the written elements of OUT. -/
def seen (o : Host.Outcome State Fault Refusal) : Option (Nat × Nat × List Nat) :=
  match o with
  | .next s => some (s.statusWord.toNat, s.outLen.toNat, s.outBuf.map fun c => c.2.toNat)
  | _ => none

/-- What the host sees after one step from the start of command word `w` on the elements `es`. -/
def run (cfg : Cfg) (w : CmdWord) (es : List Nat) : Option (Nat × Nat × List Nat) :=
  seen (step (loaded 64 64 cfg w (es.map (BitVec.ofNat 64))))

/-- The fault of an outcome. -/
def faultOf (o : Host.Outcome State Fault Refusal) : Option Fault :=
  match o with
  | .fault f => some f
  | _ => none

/-! ## Decoding: every row of the opcode table, its word written out bit by bit (30_encoding.md R71, R75 to R82) -/

theorem test_decode_util :
    [0b0000000000000000#16, 0b0000000000000001#16].map decode
      =
      [.b2bits, .bits2b] := by
  decide +kernel

theorem test_decode_framing :
    [0b0001000000000000#16, 0b0001000000000001#16, 0b0001000100000000#16, 0b0001000100000001#16,
     0b0001001000000000#16, 0b0001001000000001#16, 0b0001001100000000#16, 0b0001001100000001#16,
     0b0001010000000000#16, 0b0001111100000001#16].map decode
      =
      [.frmNoneEnc, .frmNoneDec, .frmLpEnc, .frmLpDec, .frmBysEnc, .frmBysDec, .frmBisEnc, .frmBisDec,
       .frmPass 4#4 .transmit, .frmPass 15#4 .receive] := by
  decide +kernel

theorem test_decode_errctl :
    [0b0010000000000000#16, 0b0010000000000001#16, 0b0010000100000000#16, 0b0010000100000001#16,
     0b0010001000000000#16, 0b0010001000000001#16, 0b0010001100000000#16, 0b0010001100000001#16,
     0b0010010000000000#16, 0b0010010000000001#16, 0b0010010100000000#16, 0b0010010100000001#16,
     0b0010011000000000#16, 0b0010111100000001#16].map decode
      =
      [.ecNoneEnc, .ecNoneDec, .parEnc, .parChk, .csumEnc, .csumChk, .crcGen, .crcChk, .hamEnc, .hamDec,
       .ham84Enc, .ham84Dec, .ecPass 6#4 .transmit, .ecPass 15#4 .receive] := by
  decide +kernel

theorem test_decode_linecode :
    [0b0011000000000000#16, 0b0011000000000001#16, 0b0011000100000000#16, 0b0011000100000001#16,
     0b0011001000000000#16, 0b0011001000000001#16, 0b0011001100000000#16, 0b0011111100000001#16].map decode
      =
      [.nrzEnc, .nrzDec, .manEnc, .manDec, .amiEnc, .amiDec, .lcUnknown 3#4 .transmit, .lcUnknown 15#4 .receive] := by
  decide +kernel

theorem test_decode_passband :
    [0b0100000000000000#16, 0b0100000000000001#16, 0b0100000100000000#16, 0b0100000100000001#16,
     0b0100001000000000#16, 0b0100001000000001#16, 0b0100001100000000#16, 0b0100001100000001#16,
     0b0100010000000000#16, 0b0100111100000001#16].map decode
      =
      [.askMod, .askDem, .fskMod, .fskDem, .qpskMod, .qpskDem, .qam16Mod, .qam16Dem, .pbUnknown 4#4 .transmit,
       .pbUnknown 15#4 .receive] := by
  decide +kernel

theorem test_decode_illegal :
    [0b0101000000000000#16, 0b1111000000000001#16, 0b0000000100000000#16, 0b0001000100000010#16,
     0b0001000110000000#16].map decode
      =
      [.illegal 0x5000#16, .illegal 0xF001#16, .illegal 0x0100#16, .illegal 0x1102#16, .illegal 0x1180#16] := by
  decide +kernel

/-- The host's numbering: 16 bits, and nothing longer. -/
theorem test_decode_table_word : decodeTableWord 16 0x2301 = some .crcChk ∧ decodeTableWord 24 0x2301 = none := by
  decide +kernel

/-! ## WellFormed: an ill-formed term for each check -/

theorem test_frmPass_variant_refused : (Instr.frmPass 3#4 .transmit).wellFormed = false := by decide
theorem test_ecPass_variant_refused : (Instr.ecPass 5#4 .receive).wellFormed = false := by decide
theorem test_lcUnknown_variant_refused : (Instr.lcUnknown 2#4 .transmit).wellFormed = false := by decide
theorem test_pbUnknown_variant_refused : (Instr.pbUnknown 3#4 .receive).wellFormed = false := by decide
theorem test_illegal_word_refused : (Instr.illegal 0x1100#16).wellFormed = false := by decide

/-! ## Commands, 95_test_vectors.md section 2 -/

theorem test_b2bits : run Cfg.reset 0x0000#16 [0xA5] = some (0x2, 8, [1, 0, 1, 0, 0, 1, 0, 1]) := by decide +kernel

theorem test_bits2b_pads : run Cfg.reset 0x0001#16 [1, 0, 1] = some (0x2, 1, [0xA0]) := by decide +kernel

theorem test_bits2b_reads_bit_zero :
    run Cfg.reset 0x0001#16 [0x3, 0x2, 0x0, 0x0, 0x0, 0x0, 0x0, 0x0]
      = some (0x2, 1, [0x80]) := by
  decide +kernel

theorem test_frmNoneEnc : run Cfg.reset 0x1000#16 [0x7E, 0x41] = some (0x2, 2, [0x7E, 0x41]) := by decide +kernel

theorem test_frmNoneDec : run Cfg.reset 0x1001#16 [0x7E, 0x41] = some (0x2, 2, [0x7E, 0x41]) := by decide +kernel

theorem test_frmPass : run Cfg.reset 0x1700#16 [0x1, 0x2] = some (0x2, 2, [0x1, 0x2]) := by decide +kernel

theorem test_frmLpEnc : run Cfg.reset 0x1100#16 [0x41, 0x0] = some (0x2, 3, [0x3, 0x41, 0x0]) := by decide +kernel

theorem test_frmLpEnc_bounds :
    (lpEncode (List.replicate 254 0x41#8)).map (fun f => (f.length, f.head?)) = .ok (255, some 0xFF#8)
      ∧ lpEncode (List.replicate 255 0x41#8) = .error .frameTooLarge := by
  decide +kernel

theorem test_frmLpDec : run Cfg.reset 0x1101#16 [0x9, 0x41] = some (0x2, 1, [0x41]) := by decide +kernel

theorem test_frmBysEnc :
    run Cfg.reset 0x1200#16 [0x7E, 0x41, 0x7D]
      = some (0x2, 7, [0x7E, 0x7D, 0x7E, 0x41, 0x7D, 0x7D, 0x7E]) := by
  decide +kernel

theorem test_frmBysDec :
    run Cfg.reset 0x1201#16 [0x7E, 0x41, 0x7E, 0x42, 0x7E]
      = some (0x2, 3, [0x41, 0x7E, 0x42]) := by
  decide +kernel

theorem test_frmBysDec_truncated :
    run Cfg.reset 0x1201#16 [0x7E, 0x7D, 0x7E]
      = some (0x36, 0, []) := by
  decide +kernel

theorem test_frmBisEnc :
    run Cfg.reset 0x1300#16 [0xFF, 0xFF]
      = some (0x2, 5, [0x7E, 0xFB, 0xEF, 0xA0, 0x7E]) := by
  decide +kernel

theorem test_frmBisEnc_flag :
    run Cfg.reset 0x1300#16 [0x7E]
      = some (0x2, 4, [0x7E, 0x7D, 0x0, 0x7E]) := by
  decide +kernel

theorem test_frmBisDec :
    run Cfg.reset 0x1301#16 [0x7E, 0xFB, 0xEF, 0xA0, 0x7E]
      = some (0x2, 2, [0xFF, 0xFF]) := by
  decide +kernel

theorem test_frmBisDec_drops_after_five :
    run Cfg.reset 0x1301#16 [0x7E, 0xFC, 0x7E]
      = some (0x2, 0, []) := by
  decide +kernel

theorem test_ecNoneEnc : run Cfg.reset 0x2000#16 [0x41] = some (0x2, 1, [0x41]) := by decide +kernel

theorem test_ecNoneDec : run Cfg.reset 0x2001#16 [0x41] = some (0x2, 1, [0x41]) := by decide +kernel

theorem test_ecPass : run Cfg.reset 0x2F01#16 [0x41] = some (0x2, 1, [0x41]) := by decide +kernel

theorem test_parEnc : run Cfg.reset 0x2100#16 [0x7] = some (0x2, 2, [0x7, 0x1]) := by decide +kernel

theorem test_parChk : run Cfg.reset 0x2101#16 [0x7, 0x1] = some (0x2, 1, [0x7]) := by decide +kernel

theorem test_parChk_odd : run Cfg.reset 0x2101#16 [0x41, 0x1] = some (0x46, 0, []) := by decide +kernel

theorem test_csumEnc_folds :
    run Cfg.reset 0x2200#16 [0xF0, 0x20]
      = some (0x2, 3, [0xF0, 0x20, 0xEE]) := by
  decide +kernel

theorem test_csumChk : run Cfg.reset 0x2201#16 [0x1, 0x2, 0xFC] = some (0x2, 2, [0x1, 0x2]) := by decide +kernel

theorem test_csumChk_wrong : run Cfg.reset 0x2201#16 [0x1, 0x2, 0xFD] = some (0x56, 0, []) := by decide +kernel

theorem test_crcGen :
    run Cfg.reset 0x2300#16 [0x31, 0x32, 0x33, 0x34, 0x35, 0x36, 0x37, 0x38, 0x39]
      = some (0x2, 13, [0x31, 0x32, 0x33, 0x34, 0x35, 0x36, 0x37, 0x38, 0x39, 0x89, 0xA1, 0x89, 0x7F]) := by
  decide +kernel

theorem test_crcGen_width_12 :
    run { Cfg.reset with crcWidth := 12#6, crcPoly := 0x80F#32 } 0x2300#16 [0x41]
      = some (0x2, 3, [0x41, 0x2, 0x8A]) := by
  decide +kernel

theorem test_crcChk :
    run Cfg.reset 0x2301#16 [0x41, 0x30, 0x47, 0x6D, 0xC0]
      = some (0x2, 1, [0x41]) := by
  decide +kernel

theorem test_crcChk_mismatch :
    run Cfg.reset 0x2301#16 [0x41, 0x30, 0x47, 0x6D, 0xC1]
      = some (0x66, 0, []) := by
  decide +kernel

theorem test_hamEnc :
    run Cfg.reset 0x2400#16 [0x48, 0x69]
      = some (0x2, 6, [0x99, 0xC3, 0x31, 0x90, 0x0, 0x10]) := by
  decide +kernel

theorem test_hamEnc_k_3 :
    run { Cfg.reset with hamK := 3#8 } 0x2400#16 [0xA5]
      = some (0x2, 5, [0xB5, 0x59, 0x80, 0x0, 0x8]) := by
  decide +kernel

theorem test_hamDec_corrects :
    run Cfg.reset 0x2401#16 [0x34, 0x94, 0x0, 0x8]
      = some (0x2, 1, [0xA5]) := by
  decide +kernel

theorem test_hamDec_syndrome_above_n :
    run { Cfg.reset with hamK := 8#8 } 0x2401#16 [0x64, 0x40, 0x0, 0x8]
      = some (0x2, 1, [0xA4]) := by
  decide +kernel

theorem test_ham84Enc :
    run Cfg.reset 0x2500#16 [0x48, 0x69]
      = some (0x2, 4, [0x99, 0xE1, 0xCC, 0x33]) := by
  decide +kernel

theorem test_ham84Dec_corrects : run Cfg.reset 0x2501#16 [0x34, 0x4B] = some (0x2, 1, [0xA5]) := by decide +kernel

theorem test_ham84Dec_two_errors : run Cfg.reset 0x2501#16 [0x35, 0x4B] = some (0xA6, 0, []) := by decide +kernel

theorem test_nrzEnc :
    run { Cfg.reset with spb := 2#32 } 0x3000#16
        [1, 0, 1]
      = some (0x2, 6,
        [0x3FF0000000000000, 0x3FF0000000000000, 0xBFF0000000000000, 0xBFF0000000000000, 0x3FF0000000000000,
         0x3FF0000000000000]) := by
  decide +kernel

theorem test_nrzDec :
    run { Cfg.reset with spb := 2#32 } 0x3001#16
        [0x3FF0000000000000, 0xBFF0000000000000, 0, 0, 0x3FE0000000000000, 0xBFD0000000000000,
         0x3FF0000000000000]
      = some (0x2, 3,
        [0, 0, 1]) := by
  decide +kernel

theorem test_manEnc_odd :
    run { Cfg.reset with spb := 3#32 } 0x3100#16
        [1, 0]
      = some (0x2, 6,
        [0x3FF0000000000000, 0xBFF0000000000000, 0xBFF0000000000000, 0xBFF0000000000000, 0x3FF0000000000000,
         0x3FF0000000000000]) := by
  decide +kernel

theorem test_manDec_first_half :
    run { Cfg.reset with spb := 3#32 } 0x3101#16
        [0x3FF0000000000000, 0xBFF0000000000000, 0xBFF0000000000000, 0xBFF0000000000000, 0x3FF0000000000000,
         0x3FF0000000000000, 0, 0x4014000000000000, 0x4014000000000000, 0x4008000000000000]
      = some (0x2, 3,
        [1, 0, 0]) := by
  decide +kernel

theorem test_amiEnc :
    run { Cfg.reset with spb := 2#32 } 0x3200#16
        [1, 1, 0, 1, 1]
      = some (0x2, 10,
        [0x3FF0000000000000, 0x3FF0000000000000, 0xBFF0000000000000, 0xBFF0000000000000, 0, 0,
         0x3FF0000000000000, 0x3FF0000000000000, 0xBFF0000000000000, 0xBFF0000000000000]) := by
  decide +kernel

theorem test_amiDec :
    run { Cfg.reset with spb := 2#32 } 0x3201#16
        [0x3FA999999999999A, 0x3FA999999999999A, 0x3FC999999999999A, 0, 0xBFB999999999999A, 0xBFB999999999999A,
         0xBFB70A3D70A3D70A, 0xBFB999999999999A, 0x3FF0000000000000]
      = some (0x2, 4,
        [0, 1, 1, 0]) := by
  decide +kernel

theorem test_lcUnknown : run Cfg.reset 0x3300#16 [] = some (0x76, 0, []) := by decide +kernel

/-! ## Passband: the rules with a sine chosen for the test, since Sin64 and Cos64 are OPEN (00_scope.md R5) -/

/-- A correctly rounded sine at the four arguments of s = 4, fc = 1 (95_test_vectors.md 2.5). -/
def sin4 (x : F64) : F64 :=
  if x = 0x3FF921FB54442D18#64 then 0x3FF0000000000000#64
  else if x = 0x400921FB54442D18#64 then 0x3CA1A62633145C07#64
  else if x = 0x4012D97C7F3321D2#64 then 0xBFF0000000000000#64
  else 0x0000000000000000#64

/-- A correctly rounded cosine at the same arguments. -/
def cos4 (x : F64) : F64 :=
  if x = 0x3FF921FB54442D18#64 then 0x3C91A62633145C07#64
  else if x = 0x400921FB54442D18#64 then 0xBFF0000000000000#64
  else if x = 0x4012D97C7F3321D2#64 then 0xBCAA79394C9E8A0A#64
  else 0x3FF0000000000000#64

/-- A sine at the odd multiples of a quarter of π, to the sign and the binary64 value nearest the square root of one
half. -/
def sinOdd (x : F64) : F64 :=
  if flt x pi64 then 0x3FE6A09E667F3BCD#64
  else if flt x (fmul (f64 2) pi64) then 0xBFE6A09E667F3BCD#64
  else if flt x (fmul (f64 3) pi64) then 0x3FE6A09E667F3BCD#64
  else 0xBFE6A09E667F3BCD#64

/-- The samples of the four QPSK symbols at s = 4 (95_test_vectors.md 2.5), by sign. -/
def qpskSigns : List Bool :=
  [true, true, false, false, true, false, false, true, false, true, true, false, false, false, true, true]

/-- Those samples. -/
def qpskSamples : List F64 := qpskSigns.map fun b => if b then 0x3FE6A09E667F3BCD#64 else 0xBFE6A09E667F3BCD#64

theorem test_askMod :
    askModulate sin4 4 1 fPosZero fPosOne [true, false]
      = [0#64, 0x3FF0000000000000#64, 0x3CA1A62633145C07#64, 0xBFF0000000000000#64, 0#64, 0#64, 0#64, 0x8000000000000000#64] := by
  decide +kernel

theorem test_askDem :
    askDemodulate sin4 4 1 [0#64, 0x3FF0000000000000#64, 0x3CA1A62633145C07#64, 0xBFF0000000000000#64, 0#64, 0#64, 0#64, 0x8000000000000000#64]
      = [true, false] := by
  decide +kernel

/-- With the identity for the sine, a sample is its argument: 0 and π for f0 = 1, 0 and 2π for f1 = 2 (R211, R216). -/
theorem test_fskMod :
    fskModulate id 2 1 2 [true, false]
      = [0#64, 0x401921FB54442D18#64, 0#64, 0x400921FB54442D18#64] := by
  decide +kernel

/-- Against the same references a sample 1.0 gives 2π > π, and zeros give equal correlations, which decide 0 (R217). -/
theorem test_fskDem :
    fskDemodulate id 2 1 2 [0#64, 0x3FF0000000000000#64, 0#64, 0#64]
      = [true, false] := by
  decide +kernel

/-- With the identity for the sine and s = 1, the samples are the phases of 95_test_vectors.md 2.5 in symbol order. -/
theorem test_qpskMod :
    qpskModulate id 1 1 [false, false, false, true, true, false, true, true]
      = [0x3FE921FB54442D18#64, 0x4002D97C7F3321D2#64, 0x4015FDBBE9BBA775#64, 0x400F6A7A2955385E#64] := by
  decide +kernel

theorem test_qpskDem :
    qpskDemodulate sinOdd 4 1 qpskSamples
      = [false, false, false, true, true, false, true, true] := by
  decide +kernel

theorem test_qam16Mod :
    qamModulate sin4 cos4 4 1 [true, false, true, true]
      = [0x4008000000000000#64, 0xBFEFFFFFFFFFFFFE#64, 0xC008000000000000#64, 0x3FEFFFFFFFFFFFFB#64] := by
  decide +kernel

theorem test_qam16Dem :
    qamDemodulate sin4 cos4 4 1
        [0x4008000000000000#64, 0xBFEFFFFFFFFFFFFE#64, 0xC008000000000000#64, 0x3FEFFFFFFFFFFFFB#64, 0#64, 0#64, 0#64, 0#64]
      = [true, false, true, true, false, true, false, true] := by
  decide +kernel

theorem test_askMod_no_samples :
    run { Cfg.reset with spb := 0#32 } 0x4000#16 [1]
      = some (0x86, 0, []) := by
  decide +kernel

theorem test_askDem_no_samples :
    run { Cfg.reset with spb := 0#32 } 0x4001#16 [1]
      = some (0x86, 0, []) := by
  decide +kernel

theorem test_fskMod_equal_tones :
    run { Cfg.reset with f0 := 7#32, f1 := 7#32 } 0x4100#16 [1]
      = some (0x86, 0, []) := by
  decide +kernel

theorem test_fskDem_equal_tones :
    run { Cfg.reset with f0 := 7#32, f1 := 7#32 } 0x4101#16 [1]
      = some (0x86, 0, []) := by
  decide +kernel

theorem test_qpskMod_no_samples :
    run { Cfg.reset with spb := 0#32 } 0x4200#16 [1]
      = some (0x86, 0, []) := by
  decide +kernel

theorem test_qpskDem_no_samples :
    run { Cfg.reset with spb := 0#32 } 0x4201#16 [1]
      = some (0x86, 0, []) := by
  decide +kernel

theorem test_qam16Mod_no_samples :
    run { Cfg.reset with spb := 0#32 } 0x4300#16 [1]
      = some (0x86, 0, []) := by
  decide +kernel

theorem test_qam16Dem_no_samples :
    run { Cfg.reset with spb := 0#32 } 0x4301#16 [1]
      = some (0x86, 0, []) := by
  decide +kernel

theorem test_pbUnknown : run Cfg.reset 0x4F01#16 [] = some (0x76, 0, []) := by decide +kernel

theorem test_illegal_before_other_checks : run Cfg.reset 0x5000#16 [0] = some (0xC6, 0, []) := by decide +kernel

/-! ## The checks, the host and reset -/

/-- IN_LEN above IN_CAP (95_test_vectors.md 2.6): BufferOverflow, and for 0x5000 IllegalCommand. -/
theorem test_check_order :
    seen (step (loaded 1 64 Cfg.reset 0x2300#16 [0#64, 0#64])) = some (0xB6, 0, [])
      ∧ seen (step (loaded 1 64 Cfg.reset 0x5000#16 [0#64, 0#64])) = some (0xC6, 0, []) := by
  decide +kernel

/-- An output one element longer than OUT_CAP is BufferOverflow (R256). -/
theorem test_output_overflow : seen (step (loaded 64 1 Cfg.reset 0x2100#16 [0#64])) = some (0xB6, 0, []) := by
  decide +kernel

/-- An unwritten input element is UnwrittenRead (R56). -/
theorem test_unwritten_input :
    faultOf (step (State.placeCommand { ready 64 64 Cfg.reset [1#64] [] [] with inLen := 2#32 } 0x1000#16))
      = some .unwrittenRead := by
  decide +kernel

/-- LOAD and a CMD write (30_encoding.md R87), in an IDLE block. -/
theorem test_load :
    (match Sys2Proof.core.run 3 (ready 4 4 Cfg.reset [] [] (opsLoad [0x41#64] ++ [.regWrite 0x00 64 0x12100#64])) with
      | .next s => some (s.inBuf, s.inLen, s.cmd)
      | _ => none) = some ([(0, 0x41#64)], 1#32, 0x2100#16) := by
  decide +kernel

/-- CHAIN, then RESET (30_encoding.md R87; 95_test_vectors.md P6). -/
theorem test_chain_then_reset :
    (match Sys2Proof.core.run 4 (ready 4 4 Cfg.reset [] [0x41#64] ([.chain] ++ opsReset)) with
      | .next s => some (s.inBuf, s.inLen)
      | _ => none) = some ([(0, 0x41#64)], 1#32)
      ∧ (match Sys2Proof.core.run 5 (ready 4 4 Cfg.reset [] [0x41#64] ([.chain] ++ opsReset)) with
        | .next s => some (s.inBuf, s.outBuf, s.outLen, s.statusWord)
        | _ => none) = some ([], [], 0#32, 0#64) := by
  decide +kernel

/-- WAIT polls STATUS until EXEC has happened, here one host step after START (30_encoding.md R87). -/
theorem test_wait :
    (match Sys2Proof.core.run 3 { ready 4 4 Cfg.reset [] [] [.wait] with
        done := false, engine := .busy (ready 4 4 Cfg.reset [] [] []).snapshot 1 } with
      | .next s => some (s.reads, s.script)
      | _ => none) = some ([2#64, 1#64], []) := by
  decide +kernel

/-- A buffer write while BUSY (95_test_vectors.md P6, first negative case), and a read of OUT after an error (second). -/
theorem test_negative_cases :
    faultOf (hostOp (.inWrite 0 0x42#64) (loaded 4 4 Cfg.reset 0x5000#16 [])) = some .hostAccessWhileBusy
      ∧ (match step (loaded 4 4 Cfg.reset 0x5000#16 []) with
        | .next s => faultOf (hostOp (.outRead 0) s)
        | _ => none) = some .unwrittenRead := by
  decide +kernel
/-! ## Witnesses: for each obligation with hypotheses, a concrete state and operands that meet them, clause by clause -/

/-- The elements that stand for these bytes, bits or samples. -/
def fromBytes (bs : List Byte) : List Word := bs.map writeByte

def fromBits (bt : List Bit) : List Word := bt.map writeBit

/-- The input of a block just started is what was placed in it. -/
theorem loaded_hasInput {inCap outCap : Nat} {cfg : Cfg} {w : CmdWord} {es : List Word} (h : es.length ≤ inCap)
    (hl : es.length < 2 ^ 32) : (loaded inCap outCap cfg w es).HasInput es where
  length := Nat.mod_eq_of_lt hl
  fits := h
  written j v hj := by
    have hm : es.length % 2 ^ 32 = es.length := Nat.mod_eq_of_lt hl
    have hlt : j < es.length := (List.getElem?_eq_some_iff.1 hj).1
    show memRead (memBelow (memOfList es) (es.length % 2 ^ 32)) j = some v
    rw [hm, memRead_memBelow _ hlt, memRead_memOfList, hj]

theorem loaded_hasBytes {inCap outCap : Nat} {cfg : Cfg} {w : CmdWord} {bs : List Byte} (h : bs.length ≤ inCap)
    (hl : bs.length < 2 ^ 32) : (loaded inCap outCap cfg w (fromBytes bs)).HasBytes bs :=
  ⟨fromBytes bs, loaded_hasInput (by simpa [fromBytes] using h) (by simpa [fromBytes] using hl), by
    rw [fromBytes, List.map_map]
    refine (List.map_congr_left fun b _ => ?_).trans (List.map_id bs)
    simp only [Function.comp, writeByte, id]
    ext i hi
    simp only [BitVec.getElem_extractLsb', BitVec.getLsbD_setWidth, Nat.zero_add]
    simp [hi, show i < 64 by omega]⟩

theorem loaded_hasBits {inCap outCap : Nat} {cfg : Cfg} {w : CmdWord} {bt : List Bit} (h : bt.length ≤ inCap)
    (hl : bt.length < 2 ^ 32) : (loaded inCap outCap cfg w (fromBits bt)).HasBits bt :=
  ⟨fromBits bt, loaded_hasInput (by simpa [fromBits] using h) (by simpa [fromBits] using hl), by
    rw [fromBits, List.map_map]
    refine (List.map_congr_left fun b _ => ?_).trans (List.map_id bt)
    cases b <;> rfl⟩

theorem loaded_hasSamples {inCap outCap : Nat} {cfg : Cfg} {w : CmdWord} {xs : List F64} (h : xs.length ≤ inCap)
    (hl : xs.length < 2 ^ 32) : (loaded inCap outCap cfg w xs).HasSamples xs := loaded_hasInput h hl

/-- The IDLE block of the tests has the invariant. -/
theorem ready_inv {inCap outCap : Nat} {cfg : Cfg} {es out : List Word} {script : List HostOp}
    (hi : 1 ≤ inCap ∧ inCap < 2 ^ 32) (ho : 1 ≤ outCap ∧ outCap < 2 ^ 32) (he : es.length ≤ inCap)
    (hu : out.length ≤ outCap) : (ready inCap outCap cfg es out script).Inv where
  inCapLegal := hi
  outCapLegal := ho
  inCanonical := memOfList_wf es
  outCanonical := memOfList_wf out
  inWithin c hc := by have := (mem_memFrom hc).2; show c.1 < inCap; omega
  outMarks i := by
    have : out.length % 2 ^ 32 = out.length := Nat.mod_eq_of_lt (by omega)
    show (memRead (memOfList out) i).isSome = true ↔ i < out.length % 2 ^ 32
    rw [this, memRead_memOfList]
    simp
  outFits := Nat.le_trans (Nat.mod_le _ _) hu
  status := ⟨by simp [ready, State.isBusy], fun _ => rfl, fun h => nomatch h⟩
  errorLeavesNothing h := nomatch h
  latchedCurrent _ _ h := nomatch h

/-- The block just started has the invariant. -/
theorem loaded_inv {inCap outCap : Nat} {cfg : Cfg} {w : CmdWord} {es : List Word}
    (hi : 1 ≤ inCap ∧ inCap < 2 ^ 32) (ho : 1 ≤ outCap ∧ outCap < 2 ^ 32) (he : es.length ≤ inCap) :
    (loaded inCap outCap cfg w es).Inv :=
  let r := ready_inv (cfg := cfg) (out := []) (script := []) hi ho he (Nat.zero_le _)
  { inCapLegal := hi
    outCapLegal := ho
    inCanonical := r.inCanonical
    outCanonical := r.outCanonical
    inWithin := r.inWithin
    outMarks := r.outMarks
    outFits := r.outFits
    status := ⟨by simp [loaded, ready, State.placeCommand, State.latch, State.isBusy], fun _ => rfl, fun h => nomatch h⟩
    errorLeavesNothing := fun h => nomatch h
    latchedCurrent := fun _ _ h => by cases h; rfl }

/-- A started block whose input is `bs`, with the room for `outCap` elements of output. -/
def onBytes (outCap : Nat) (bs : List Byte) (cfg : Cfg := Cfg.reset) : State :=
  loaded 16384 outCap cfg 0x0000#16 (fromBytes bs)

def onBits (outCap : Nat) (bt : List Bit) (cfg : Cfg := Cfg.reset) : State :=
  loaded 16384 outCap cfg 0x0000#16 (fromBits bt)

def onSamples (outCap : Nat) (xs : List F64) (cfg : Cfg := Cfg.reset) : State :=
  loaded 16384 outCap cfg 0x0000#16 xs

theorem onBytes_has (outCap : Nat) (bs : List Byte) (cfg : Cfg) (h : bs.length ≤ 16384) :
    (onBytes outCap bs cfg).HasBytes bs := loaded_hasBytes h (by omega)

theorem replicate_fits {n : Nat} {b : Byte} (h : n ≤ 16384 := by decide) : (List.replicate n b).length ≤ 16384 := by
  rwa [List.length_replicate]

theorem onBits_has (outCap : Nat) (bt : List Bit) (cfg : Cfg) (h : bt.length ≤ 16384) :
    (onBits outCap bt cfg).HasBits bt := loaded_hasBits h (by omega)

theorem onSamples_has (outCap : Nat) (xs : List F64) (cfg : Cfg) (h : xs.length ≤ 16384) :
    (onSamples outCap xs cfg).HasSamples xs := loaded_hasSamples h (by omega)

/-! ### Encoding and lifecycle -/

theorem witness_DecodeOfEncodeIsTheCommand :
    (Instr.frmPass 4#4 .receive).wellFormed = true ∧ (Instr.ecPass 15#4 .transmit).wellFormed = true
      ∧ (Instr.lcUnknown 3#4 .receive).wellFormed = true ∧ (Instr.pbUnknown 15#4 .transmit).wellFormed = true
      ∧ (Instr.illegal 0x5000#16).wellFormed = true ∧ Instr.crcGen.wellFormed = true := by decide

/-- One word for each of the three grounds: RSVD = 1, FAMILY = 5, UTIL with VARIANT = 1. -/
theorem witness_IllegalWordsEndWithIllegalCommand :
    (0x1102#16).toNat / 2 % 128 ≠ 0 ∧ 5 ≤ (0x5000#16).toNat / 4096
      ∧ ((0x0100#16).toNat / 4096 = 0 ∧ (0x0100#16).toNat / 256 % 16 ≠ 0) := by decide

theorem witness_StepRunsTheLatchedCommand :
    (∃ (s : State) (l : Latched) (wait : Nat), s.engine = .busy l wait ∧ wait = 0 ∧ s.script ≠ [])
      ∧ (∃ (s : State) (l : Latched) (wait : Nat), s.engine = .busy l wait ∧ s.script = [] ∧ wait ≠ 0)
      ∧ (0xFFFF : Nat) < 65536 :=
  ⟨⟨{ loaded 4 4 Cfg.reset 0x2300#16 [] with script := [.wait] }, _, _, rfl, rfl, by decide⟩,
    ⟨{ loaded 4 4 Cfg.reset 0x2300#16 [] with engine := .busy (ready 4 4 Cfg.reset [] [] []).snapshot 3 }, _, _, rfl,
      rfl, by decide⟩, by decide⟩

theorem witness_StartLatchesTheCommand :
    ∃ (s : State) (v : Word) (rest : List HostOp), s.engine = .idle ∧ s.script = .regWrite 0x08 64 v :: rest
      ∧ v.getLsbD 0 = true ∧ v.getLsbD 1 = false :=
  ⟨ready 4 4 Cfg.reset [1#64] [] [.regWrite 0x08 64 1#64, .wait], 1#64, [.wait], rfl, rfl, by decide⟩

/-- A command that ends with an error, one that gives a result, and a result that fills OUT. -/
theorem witness_CompletionLeavesAResultOrACleanError :
    (∃ (i : Instr) (s t : State), s.outCap < 2 ^ 32 ∧ exec i s = .next t ∧ t.err = true)
      ∧ (∃ (i : Instr) (s t : State), s.outCap < 2 ^ 32 ∧ exec i s = .next t ∧ t.err = false ∧ t.outLen ≠ 0#32)
      ∧ ∃ (s : State) (out : List Word), out.length ≤ s.outCap ∧ s.outCap < 2 ^ 32 ∧ out[1]? = some 9#64 :=
  ⟨⟨.illegal 0x5000#16, loaded 4 4 Cfg.reset 0x5000#16 [], _, by decide, rfl, rfl⟩,
    ⟨.frmNoneEnc, loaded 4 4 Cfg.reset 0x1000#16 [7#64], _, by decide, rfl, rfl, by decide⟩,
    ⟨loaded 4 2 Cfg.reset 0x1000#16 [], [8#64, 9#64], by decide⟩⟩

/-- IN_LEN = IN_CAP + 1, and IN_LEN = IN_CAP with the last element unwritten. -/
theorem witness_InputIsCheckedBeforeTheRule :
    (∀ v d, Instr.crcGen ≠ .lcUnknown v d) ∧ (∀ v d, Instr.crcGen ≠ .pbUnknown v d) ∧ (∀ w, Instr.crcGen ≠ .illegal w)
      ∧ (∃ s : State, s.inCap < s.operands.inLen.toNat)
      ∧ ∃ s : State, s.operands.inLen.toNat ≤ s.inCap
        ∧ ∃ j < s.operands.inLen.toNat, memRead s.operands.input j = none :=
  ⟨by simp, by simp, by simp, ⟨loaded 1 4 Cfg.reset 0x2300#16 [0#64, 0#64], by decide⟩,
    ⟨{ ready 2 4 Cfg.reset [0#64] [] [] with inLen := 2#32 }, by decide, 1, by decide⟩⟩

/-- A step that ends in each of the four faults. -/
theorem witness_StepFaultsOnlyAsTheTableLists :
    faultOf (step (State.placeCommand { ready 4 4 Cfg.reset [] [] [] with inLen := 1#32 } 0x2300#16))
        = some .unwrittenRead
      ∧ faultOf (step (ready 4 4 Cfg.reset [] [] [.regRead 0x04 64])) = some .badRegisterAccess
      ∧ faultOf (step (ready 4 4 Cfg.reset [] [] [.inWrite 4 0#64])) = some .badBufferAccess
      ∧ faultOf (step { ready 4 4 Cfg.reset [] [] [.outRead 0] with
          engine := .busy (ready 4 4 Cfg.reset [] [] []).snapshot 1 }) = some .hostAccessWhileBusy := by
  decide +kernel

theorem witness_EveryStepKeepsTheInvariant : ∃ s t : State, s.Inv ∧ step s = .next t ∧ s ≠ t :=
  ⟨loaded 4 4 Cfg.reset 0x5000#16 [1#64], _, loaded_inv (by decide) (by decide) (by decide), rfl, by decide⟩

theorem witness_RegisterWritesReadBackMasked :
    let rows : List (Nat × Word) := [(0x00, 0xFFFF#64), (0x18, 0xFFFFFFFF#64), (0x30, 0xFFFFFFFF#64), (0x38, 0x3F#64),
      (0x40, 0xFFFFFFFF#64), (0x48, 0xFF#64), (0x50, 0xFFFFFFFF#64), (0x58, 0xFFFFFFFF#64), (0x60, 0xFFFFFFFF#64),
      (0x68, 0xFFFFFFFFFFFFFFFF#64), (0x70, 0xFFFFFFFFFFFFFFFF#64)]
    ∃ s : State, s.engine = .idle ∧ (0x00, 0xFFFF#64) ∈ rows ∧ (0x38, 0x3F#64) ∈ rows
      ∧ (0x70, 0xFFFFFFFFFFFFFFFF#64) ∈ rows :=
  ⟨ready 4 4 Cfg.reset [] [] [], rfl, by decide⟩

/-- The first and the last reserved offset, and each kind of bad access at its boundary. -/
theorem witness_ReservedOffsetsAndBadRegisterAccesses :
    (ready 4 4 Cfg.reset [] [] []).engine = .idle
      ∧ ((0x78 : Nat) ≤ 0x78 ∧ (0x78 : Nat) ≤ 0xF8 ∧ 0x78 % 8 = 0) ∧ ((0x78 : Nat) ≤ 0xF8 ∧ 0xF8 % 8 = 0)
      ∧ (0x04 % 8 ≠ 0 ∧ (0xFF : Nat) < 0x100 ∧ (32 : Nat) ≠ 64) := by decide

theorem witness_ReadOnlyWritesAndReadsHaveNoEffect :
    (ready 4 4 Cfg.reset [] [] []).engine = .idle ∧ (0x28 : Nat) ∈ [0x10, 0x20, 0x28]
      ∧ ((4#64).getLsbD 0 = false ∧ (4#64).getLsbD 1 = false) ∧ 0xF8 % 8 = 0 ∧ (0xF8 : Nat) ≤ 0xFF
      ∧ (0x08, Reg.ctrl, 0#64) ∈ [((0x08 : Nat), Reg.ctrl, 0#64), (0x70, .cfgA1, Cfg.reset.a1)]
      ∧ (0x70, Reg.cfgA1, Cfg.reset.a1) ∈ [((0x08 : Nat), Reg.ctrl, 0#64), (0x70, .cfgA1, Cfg.reset.a1)] := by decide

theorem witness_HostAccessWhileBusy :
    ∃ (s : State) (l : Latched) (wait : Nat), s.Inv ∧ s.engine = .busy l wait :=
  ⟨loaded 4 4 Cfg.reset 0x2300#16 [1#64], _, _, loaded_inv (by decide) (by decide) (by decide), rfl⟩

theorem witness_SoftResetIsPowerOnReset :
    (2#64).getLsbD 1 = true ∧ (3#64).getLsbD 1 = true ∧ (ready 4 4 Cfg.reset [] [] []).engine = .idle
      ∧ ∃ l wait, (loaded 4 4 Cfg.reset 0x2300#16 []).engine = .busy l wait :=
  ⟨by decide, by decide, rfl, _, _, rfl⟩

/-- The last element of IN written and unwritten, the first index past IN, and a BUSY block. -/
theorem witness_HostAccessToTheInputBuffer :
    (∃ s : State, s.engine = .idle ∧ 3 < s.inCap ∧ memRead s.inBuf 3 = some 9#64)
      ∧ (∃ s : State, s.engine = .idle ∧ 3 < s.inCap ∧ memRead s.inBuf 3 = none)
      ∧ (∃ s : State, s.engine = .idle ∧ s.inCap ≤ 4)
      ∧ ∃ (s : State) (l : Latched) (wait : Nat), s.engine = .busy l wait :=
  ⟨⟨ready 4 4 Cfg.reset [6#64, 7#64, 8#64, 9#64] [] [], rfl, by decide, by decide⟩,
    ⟨ready 4 4 Cfg.reset [] [] [], rfl, by decide, rfl⟩, ⟨ready 4 4 Cfg.reset [] [] [], rfl, by decide⟩,
    ⟨loaded 4 4 Cfg.reset 0x2300#16 [], _, _, rfl⟩⟩

/-- With OUT_LEN = 1 and OUT_CAP = 2: the indices 0, 1 and 2, each in its own clause. -/
theorem witness_HostAccessToTheOutputBuffer :
    (∃ s : State, s.Inv ∧ s.engine = .idle ∧ 0 < s.outLen.toNat ∧ (s.outLen.toNat ≤ 1 ∧ 1 < s.outCap) ∧ s.outCap ≤ 2)
      ∧ ∃ (s : State) (l : Latched) (wait : Nat), s.Inv ∧ s.engine = .busy l wait :=
  ⟨⟨ready 4 2 Cfg.reset [] [5#64] [], ready_inv (by decide) (by decide) (by decide) (by decide), rfl, by decide⟩,
    witness_HostAccessWhileBusy⟩

theorem witness_WaitLoopEndsAfterExec :
    ∃ (s : State) (l : Latched) (wait : Nat) (rest : List HostOp), s.engine = .busy l wait ∧ s.script = .wait :: rest
      ∧ wait = 2
      ∧ ∃ t, exec (decode l.cmd)
          { s with engine := .busy l 0, reads := List.replicate wait s.statusWord ++ s.reads } = .next t :=
  ⟨{ ready 4 4 Cfg.reset [] [] [.wait, .chain] with
      engine := .busy { (ready 4 4 Cfg.reset [] [] []).snapshot with cmd := 0x5000#16 } 2 },
    _, _, [.chain], rfl, rfl, rfl, _, rfl⟩

theorem witness_ChainHandsTheOutputOver :
    ∃ (s : State) (rest : List HostOp), s.Inv ∧ s.engine = .idle ∧ s.script = .chain :: rest
      ∧ s.outLen.toNat ≤ s.inCap ∧ s.outLen ≠ 0#32 :=
  ⟨ready 2 4 Cfg.reset [1#64] [5#64, 6#64] [.chain], [], ready_inv (by decide) (by decide) (by decide) (by decide), rfl,
    rfl, by decide⟩

/-! ### Commands on bytes and bits -/

theorem witness_B2bitsGivesTheBitsMsbFirst :
    (∃ (s : State) (bs : List Byte), s.HasBytes bs ∧ 8 * bs.length ≤ s.outCap ∧ bs ≠ [])
      ∧ ∃ (s : State) (bs : List Byte), s.HasBytes bs ∧ s.outCap < 8 * bs.length :=
  ⟨⟨onBytes 8 [0xA5#8], [0xA5#8], onBytes_has _ _ _ (by decide), by decide⟩,
    ⟨onBytes 7 [0xA5#8], [0xA5#8], onBytes_has _ _ _ (by decide), by decide⟩⟩

theorem witness_Bits2bGivesTheBytesZeroPadded :
    (∃ (s : State) (bt : List Bit), s.HasBits bt ∧ (bt.length + 7) / 8 ≤ s.outCap ∧ bt ≠ [])
      ∧ ∃ (s : State) (bt : List Bit), s.HasBits bt ∧ s.outCap < (bt.length + 7) / 8 :=
  ⟨⟨onBits 1 [true], [true], onBits_has _ _ _ (by decide), by decide⟩,
    ⟨onBits 1 (List.replicate 9 true), List.replicate 9 true, onBits_has _ _ _ (by decide), by decide⟩⟩

theorem witness_IdentityCommandsCopyTheInput :
    4 ≤ (4#4).toNat ∧ 6 ≤ (6#4).toNat
      ∧ (∃ (s : State) (bs : List Byte), s.HasBytes bs ∧ bs.length ≤ s.outCap ∧ bs ≠ [])
      ∧ ∃ (s : State) (bs : List Byte), s.HasBytes bs ∧ s.outCap < bs.length :=
  ⟨by decide, by decide, ⟨onBytes 1 [0xA5#8], [0xA5#8], onBytes_has _ _ _ (by decide), by decide⟩,
    ⟨onBytes 1 [1#8, 2#8], [1#8, 2#8], onBytes_has _ _ _ (by decide), by decide⟩⟩

/-- 254 and 255 bytes of payload, with room for the frame and without. -/
theorem witness_LengthPrefixEncodeAndDecode :
    (∃ (s : State) (bs : List Byte), s.HasBytes bs ∧ bs.length = 254 ∧ bs.length + 1 ≤ s.outCap
        ∧ bs.length - 1 ≤ s.outCap)
      ∧ (∃ (s : State) (bs : List Byte), s.HasBytes bs ∧ bs.length ≤ 254 ∧ s.outCap < bs.length + 1)
      ∧ (∃ (s : State) (bs : List Byte), s.HasBytes bs ∧ 254 < bs.length)
      ∧ ∃ (s : State) (bs : List Byte), s.HasBytes bs ∧ s.outCap < bs.length - 1 :=
  ⟨⟨onBytes 255 (List.replicate 254 1#8), _, onBytes_has _ _ _ replicate_fits, List.length_replicate,
      by rw [List.length_replicate]; decide, by rw [List.length_replicate]; decide⟩,
    ⟨onBytes 1 [1#8], _, onBytes_has _ _ _ (by decide), by decide, by decide⟩,
    ⟨onBytes 1 (List.replicate 255 1#8), _, onBytes_has _ _ _ replicate_fits,
      by rw [List.length_replicate]; decide⟩,
    ⟨onBytes 1 [1#8, 2#8, 3#8], _, onBytes_has _ _ _ (by decide), by decide⟩⟩

theorem witness_ByteStuffingEncode :
    (∃ (s : State) (bs : List Byte), s.HasBytes bs
        ∧ bs.length + 2 + bs.countP (fun b => b == 0x7D#8 || b == 0x7E#8) ≤ s.outCap ∧ bs ≠ [])
      ∧ ∃ (s : State) (bs : List Byte), s.HasBytes bs
        ∧ s.outCap < bs.length + 2 + bs.countP (fun b => b == 0x7D#8 || b == 0x7E#8) :=
  ⟨⟨onBytes 4 [0x7E#8], [0x7E#8], onBytes_has _ _ _ (by decide), by decide⟩,
    ⟨onBytes 3 [0x7E#8], [0x7E#8], onBytes_has _ _ _ (by decide), by decide⟩⟩

open Sys2Proof.Laws in
theorem witness_ByteStuffingDecode :
    (∃ (s : State) (body out : List Byte), EscapedBody body out ∧ s.HasBytes (0x7E#8 :: body ++ [0x7E#8])
        ∧ out.length ≤ s.outCap ∧ out ≠ [])
      ∧ (∃ (s : State) (body out : List Byte), EscapedBody body out ∧ s.HasBytes (0x7E#8 :: body ++ [0x7E#8])
        ∧ s.outCap < out.length)
      ∧ (∃ (s : State) (body out : List Byte), EscapedBody body out
        ∧ s.HasBytes (0x7E#8 :: (body ++ [0x7D#8]) ++ [0x7E#8]))
      ∧ ∃ (s : State) (bs : List Byte), s.HasBytes bs ∧ ¬ ∃ body, bs = 0x7E#8 :: body ++ [0x7E#8] :=
  ⟨⟨onBytes 1 [0x7E#8, 0x7D#8, 0x7E#8, 0x7E#8], [0x7D#8, 0x7E#8], [0x7E#8], .escaped _ _ _ .empty,
      onBytes_has _ _ _ (by decide), by decide⟩,
    ⟨onBytes 1 [0x7E#8, 0x41#8, 0x42#8, 0x7E#8], [0x41#8, 0x42#8], [0x41#8, 0x42#8],
      .literal _ _ _ (by decide) (.literal _ _ _ (by decide) .empty), onBytes_has _ _ _ (by decide), by decide⟩,
    ⟨onBytes 1 [0x7E#8, 0x7D#8, 0x7E#8], [], [], .empty, onBytes_has _ _ _ (by decide)⟩,
    ⟨onBytes 1 [0x7E#8], [0x7E#8], onBytes_has _ _ _ (by decide), by rintro ⟨body, h⟩; simp at h⟩⟩

theorem witness_BitStuffingEncode :
    (∃ (s : State) (bs : List Byte), s.HasBytes bs ∧ (bytes (stuff (bits bs))).length + 2 ≤ s.outCap ∧ bs ≠ [])
      ∧ (∃ (s : State) (bs : List Byte), s.HasBytes bs ∧ s.outCap < (bytes (stuff (bits bs))).length + 2)
      ∧ ¬ Laws.HasRunOfFive [true, true, true, true, false, true]
      ∧ ¬ Laws.HasRunOfFive ([true, true, true, true, false] ++ [true, true, true, true]) :=
  ⟨⟨onBytes 4 [0xFF#8], [0xFF#8], onBytes_has _ _ _ (by decide), by decide +kernel⟩,
    ⟨onBytes 3 [0xFF#8], [0xFF#8], onBytes_has _ _ _ (by decide), by decide +kernel⟩,
    by unfold Laws.HasRunOfFive; decide, by unfold Laws.HasRunOfFive; decide⟩

theorem witness_BitStuffingDecode :
    (∃ (s : State) (body : List Byte), s.HasBytes (0x7E#8 :: body ++ [0x7E#8])
        ∧ (destuff (bits body)).length / 8 ≤ s.outCap ∧ body ≠ [])
      ∧ (∃ (s : State) (body : List Byte), s.HasBytes (0x7E#8 :: body ++ [0x7E#8])
        ∧ s.outCap < (destuff (bits body)).length / 8)
      ∧ (∃ (s : State) (bs : List Byte), s.HasBytes bs ∧ ¬ ∃ body, bs = 0x7E#8 :: body ++ [0x7E#8])
      ∧ ¬ Laws.HasRunOfFive [true, true, true, true, false, true]
      ∧ ¬ Laws.HasRunOfFive ([true, true, true, true, false] ++ [true, true, true, true]) :=
  ⟨⟨onBytes 1 [0x7E#8, 0x41#8, 0x7E#8], [0x41#8], onBytes_has _ _ _ (by decide), by decide +kernel⟩,
    ⟨onBytes 1 [0x7E#8, 0x41#8, 0x42#8, 0x7E#8], [0x41#8, 0x42#8], onBytes_has _ _ _ (by decide), by decide +kernel⟩,
    ⟨onBytes 1 [0x41#8, 0x7E#8], [0x41#8, 0x7E#8], onBytes_has _ _ _ (by decide), by rintro ⟨body, h⟩; simp at h⟩,
    by unfold Laws.HasRunOfFive; decide, by unfold Laws.HasRunOfFive; decide⟩

theorem witness_ByteFramingRoundTrip : (List.replicate 254 0x7E#8).length ≤ 254 := by
  rw [List.length_replicate]

theorem witness_ParityAndChecksumAppend :
    (∃ (s : State) (bs : List Byte), s.HasBytes bs ∧ bs.length + 1 ≤ s.outCap ∧ bs ≠ [])
      ∧ ∃ (s : State) (bs : List Byte), s.HasBytes bs ∧ s.outCap < bs.length + 1 :=
  ⟨⟨onBytes 2 [7#8], [7#8], onBytes_has _ _ _ (by decide), by decide⟩,
    ⟨onBytes 1 [7#8], [7#8], onBytes_has _ _ _ (by decide), by decide⟩⟩

theorem witness_ParityAndChecksumVerify :
    (∃ (s : State) (bs : List Byte), s.HasBytes bs ∧ bs = [])
      ∧ (∃ (s : State) (bs : List Byte), s.HasBytes bs ∧ bs ≠ [] ∧ (bits bs).count true % 2 = 1 ∧ Laws.onesComplementSum bs ≠ 0xFF)
      ∧ (∃ (s : State) (bs : List Byte), s.HasBytes bs ∧ bs ≠ [] ∧ (bits bs).count true % 2 = 0 ∧ Laws.onesComplementSum bs = 0xFF
        ∧ bs.length - 1 ≤ s.outCap)
      ∧ ∃ (s : State) (bs : List Byte), s.HasBytes bs ∧ bs ≠ [] ∧ (bits bs).count true % 2 = 0 ∧ Laws.onesComplementSum bs = 0xFF
        ∧ s.outCap < bs.length - 1 :=
  ⟨⟨onBytes 1 [], [], onBytes_has _ _ _ (by decide), rfl⟩,
    ⟨onBytes 1 [1#8], [1#8], onBytes_has _ _ _ (by decide), by decide +kernel⟩,
    ⟨onBytes 1 [1#8, 0xFE#8], [1#8, 0xFE#8], onBytes_has _ _ _ (by decide), by decide +kernel⟩,
    ⟨onBytes 1 [1#8, 0#8, 0xFE#8], [1#8, 0#8, 0xFE#8], onBytes_has _ _ _ (by decide), by decide +kernel⟩⟩

/-- Widths 0, 33, 1 and 32. -/
theorem witness_CrcGenerate :
    (∃ (s : State) (bs : List Byte), s.HasBytes bs ∧ s.operands.cfg.crcWidth.toNat = 0)
      ∧ (∃ (s : State) (bs : List Byte), s.HasBytes bs ∧ 32 < s.operands.cfg.crcWidth.toNat)
      ∧ (∃ (s : State) (bs : List Byte), s.HasBytes bs ∧ s.operands.cfg.crcWidth.toNat = 32
        ∧ bs.length + (s.operands.cfg.crcWidth.toNat + 7) / 8 ≤ s.outCap ∧ bs ≠ [])
      ∧ ∃ (s : State) (bs : List Byte), s.HasBytes bs ∧ s.operands.cfg.crcWidth.toNat = 1
        ∧ s.outCap < bs.length + (s.operands.cfg.crcWidth.toNat + 7) / 8 :=
  ⟨⟨onBytes 4 [1#8] { Cfg.reset with crcWidth := 0#6 }, [1#8], onBytes_has _ _ _ (by decide), by decide⟩,
    ⟨onBytes 4 [1#8] { Cfg.reset with crcWidth := 33#6 }, [1#8], onBytes_has _ _ _ (by decide), by decide⟩,
    ⟨onBytes 5 [1#8], [1#8], onBytes_has _ _ _ (by decide), by decide⟩,
    ⟨onBytes 1 [1#8] { Cfg.reset with crcWidth := 1#6 }, [1#8], onBytes_has _ _ _ (by decide), by decide⟩⟩

/-- The trailer of a payload at W = 32, as the statement writes it out. -/
def crcTrailer (p : List Byte) (cfg : Cfg) : List Byte :=
  (List.range ((32 + 7) / 8)).map fun j => BitVec.ofNat 8 (crc p 32 cfg.crcPoly.toNat / 256 ^ ((32 + 7) / 8 - 1 - j))

theorem witness_CrcVerify :
    (∃ (s : State) (bs : List Byte), s.HasBytes bs ∧ 32 < s.operands.cfg.crcWidth.toNat)
      ∧ (∃ (s : State) (bs : List Byte), s.HasBytes bs ∧ s.operands.cfg.crcWidth.toNat = 32 ∧ bs.length < (32 + 7) / 8)
      ∧ (∃ (s : State) (p tr : List Byte), s.HasBytes (p ++ tr) ∧ s.operands.cfg.crcWidth.toNat = 32
        ∧ tr.length = (32 + 7) / 8 ∧ tr ≠ crcTrailer p s.operands.cfg)
      ∧ (∃ (s : State) (p tr : List Byte), s.HasBytes (p ++ tr) ∧ s.operands.cfg.crcWidth.toNat = 32
        ∧ tr.length = (32 + 7) / 8 ∧ tr = crcTrailer p s.operands.cfg ∧ p.length ≤ s.outCap)
      ∧ ∃ (s : State) (p tr : List Byte), s.HasBytes (p ++ tr) ∧ s.operands.cfg.crcWidth.toNat = 32
        ∧ tr.length = (32 + 7) / 8 ∧ tr = crcTrailer p s.operands.cfg ∧ s.outCap < p.length :=
  ⟨⟨onBytes 4 [1#8] { Cfg.reset with crcWidth := 33#6 }, [1#8], onBytes_has _ _ _ (by decide), by decide⟩,
    ⟨onBytes 4 [0#8, 0#8, 0#8], _, onBytes_has _ _ _ (by decide), by decide, by decide⟩,
    ⟨onBytes 1 [0x41#8, 0x30#8, 0x47#8, 0x6D#8, 0xC1#8], [0x41#8], [0x30#8, 0x47#8, 0x6D#8, 0xC1#8],
      onBytes_has _ _ _ (by decide), by decide +kernel⟩,
    ⟨onBytes 1 [0x41#8, 0x30#8, 0x47#8, 0x6D#8, 0xC0#8], [0x41#8], [0x30#8, 0x47#8, 0x6D#8, 0xC0#8],
      onBytes_has _ _ _ (by decide), by decide +kernel⟩,
    ⟨onBytes 1 [0#8, 0#8, 0#8, 0#8, 0#8, 0#8], [0#8, 0#8], [0#8, 0#8, 0#8, 0#8], onBytes_has _ _ _ (by decide),
      by decide +kernel⟩⟩

theorem witness_CrcIsThePolynomialRemainder : 1 ≤ 1 ∧ 1 ≤ 32 ∧ 32 ≤ 32 := by decide

theorem witness_CrcRoundTripAndSingleBitErrors :
    1 ≤ 32 ∧ 32 ≤ 32 ∧ 0x04C11DB7 % 2 = 1 ∧ 1 < [0x41#8, 0x42#8].length ∧ 7 < 8 := by decide

/-- Blocks at k = 1 and k = 4, to encode and to decode. -/
theorem witness_HammingParityCountAndCodewords :
    (1 ≤ 1 ∧ [true].length = 1 ∧ 1 < hamParityBits 1) ∧ (1 ≤ 4 ∧ [true, false, true, false].length = 4)
      ∧ (List.replicate 3 true).length = 1 + hamParityBits 1 ∧ (List.replicate 7 true).length = 4 + hamParityBits 4 := by
  decide +kernel

/-- k = 0, 8192 bytes, 8191 bytes, and no room. -/
theorem witness_HammingEncode :
    (∃ (s : State) (bs : List Byte), s.HasBytes bs ∧ s.operands.cfg.hamK.toNat = 0)
      ∧ (∃ (s : State) (bs : List Byte), s.HasBytes bs ∧ 1 ≤ s.operands.cfg.hamK.toNat ∧ 8191 < bs.length)
      ∧ (∃ (s : State) (bs : List Byte), s.HasBytes bs ∧ s.operands.cfg.hamK.toNat = 4 ∧ bs.length = 8191
        ∧ ((8 * bs.length + 4 - 1) / 4 * (4 + hamParityBits 4) + 7) / 8 + 2 ≤ s.outCap)
      ∧ ∃ (s : State) (bs : List Byte), s.HasBytes bs ∧ s.operands.cfg.hamK.toNat = 4 ∧ bs.length ≤ 8191
        ∧ s.outCap < ((8 * bs.length + 4 - 1) / 4 * (4 + hamParityBits 4) + 7) / 8 + 2 :=
  ⟨⟨onBytes 4 [1#8] { Cfg.reset with hamK := 0#8 }, [1#8], onBytes_has _ _ _ (by decide), by decide⟩,
    ⟨onBytes 4 (List.replicate 8192 1#8), _, onBytes_has _ _ _ replicate_fits, by decide,
      by rw [List.length_replicate]; decide⟩,
    ⟨onBytes 14337 (List.replicate 8191 1#8), _, onBytes_has _ _ _ replicate_fits, by decide,
      List.length_replicate, by rw [List.length_replicate]; decide⟩,
    ⟨onBytes 3 [1#8], [1#8], onBytes_has _ _ _ (by decide), by decide⟩⟩

/-- The data of a code at k = 4 with the count in two bytes, as the statement writes it out. -/
def hamData (code : List Byte) (hi lo : Byte) : List Bit :=
  ((List.range (8 * code.length / 7)).flatMap fun j => hamDecodeBlock 4 (((bits code).drop (j * 7)).take 7)).take
    (hi.toNat * 256 + lo.toNat)

theorem witness_HammingDecode :
    (∃ (s : State) (bs : List Byte), s.HasBytes bs ∧ s.operands.cfg.hamK.toNat = 0)
      ∧ (∃ (s : State) (bs : List Byte), s.HasBytes bs ∧ 1 ≤ s.operands.cfg.hamK.toNat ∧ bs.length < 2)
      ∧ (∃ (s : State) (code : List Byte) (hi lo : Byte), s.HasBytes (code ++ [hi, lo]) ∧ s.operands.cfg.hamK.toNat = 4
        ∧ ((hamData code hi lo).length + 7) / 8
          ≤ s.outCap ∧ code ≠ [])
      ∧ ∃ (s : State) (code : List Byte) (hi lo : Byte), s.HasBytes (code ++ [hi, lo]) ∧ s.operands.cfg.hamK.toNat = 4
        ∧ s.outCap
          < ((hamData code hi lo).length + 7) / 8 :=
  ⟨⟨onBytes 4 [1#8] { Cfg.reset with hamK := 0#8 }, [1#8], onBytes_has _ _ _ (by decide), by decide⟩,
    ⟨onBytes 4 [1#8], [1#8], onBytes_has _ _ _ (by decide), by decide⟩,
    ⟨onBytes 1 [0xB4#8, 0x94#8, 0#8, 8#8], [0xB4#8, 0x94#8], 0#8, 8#8, onBytes_has _ _ _ (by decide),
      by decide +kernel⟩,
    ⟨onBytes 1 [0#8, 0#8, 0#8, 0#8, 0#8, 9#8], [0#8, 0#8, 0#8, 0#8], 0#8, 9#8, onBytes_has _ _ _ (by decide),
      by decide +kernel⟩⟩

/-- k = 255 with the last bit of a block inverted, and k = 1. -/
theorem witness_HammingCorrectsOneBitPerBlock :
    (1 ≤ 255 ∧ 255 ≤ 255 ∧ [0xA5#8].length ≤ 8191
        ∧ ∀ j q : Nat, (fun j : Nat => if j = 0 then some 263 else none) j = some q → q < 255 + hamParityBits 255)
      ∧ (1 ≤ 1 ∧ 1 ≤ 255 ∧ ∀ j q : Nat, (fun _ : Nat => some 0) j = some q → q < 1 + hamParityBits 1) := by
  refine ⟨⟨by decide, by decide, by decide, fun j q h => ?_⟩, by decide, by decide, fun j q h => ?_⟩
  · have hp : hamParityBits 255 = 9 := by decide +kernel
    dsimp only at h
    split at h <;> cases h
    omega
  · cases h; decide

theorem witness_Hamming84Encode :
    (∃ (s : State) (bs : List Byte), s.HasBytes bs ∧ 2 * bs.length ≤ s.outCap ∧ bs ≠ [])
      ∧ ∃ (s : State) (bs : List Byte), s.HasBytes bs ∧ s.outCap < 2 * bs.length :=
  ⟨⟨onBytes 2 [7#8], [7#8], onBytes_has _ _ _ (by decide), by decide⟩,
    ⟨onBytes 1 [7#8], [7#8], onBytes_has _ _ _ (by decide), by decide⟩⟩

theorem witness_Hamming84Decode :
    (∃ (s : State) (bs : List Byte), s.HasBytes bs ∧ bs.length % 2 = 1)
      ∧ (∃ (s : State) (bs : List Byte), s.HasBytes bs ∧ bs.length % 2 = 0
        ∧ ∃ e ∈ bs, (bits [e]).count true % 2 = 0 ∧ Laws.positionsXor ((bits [e]).take 7) ≠ 0)
      ∧ (∃ (s : State) (bs : List Byte) (nibbles : List (BitVec 4)), s.HasBytes bs ∧ bs.length % 2 = 0
        ∧ bs.map h84Decode = nibbles.map Except.ok ∧ bs.length / 2 ≤ s.outCap ∧ bs ≠ [])
      ∧ ∃ (s : State) (bs : List Byte) (nibbles : List (BitVec 4)), s.HasBytes bs ∧ bs.length % 2 = 0
        ∧ bs.map h84Decode = nibbles.map Except.ok ∧ s.outCap < bs.length / 2 :=
  ⟨⟨onBytes 4 [0xB4#8], [0xB4#8], onBytes_has _ _ _ (by decide), by decide⟩,
    ⟨onBytes 4 [0x35#8, 0x4B#8], [0x35#8, 0x4B#8], onBytes_has _ _ _ (by decide), by decide +kernel⟩,
    ⟨onBytes 1 [0x34#8, 0x4B#8], [0x34#8, 0x4B#8], [0xA#4, 0x5#4], onBytes_has _ _ _ (by decide), by decide +kernel⟩,
    ⟨onBytes 1 [0#8, 0#8, 0#8, 0#8], [0#8, 0#8, 0#8, 0#8], [0#4, 0#4, 0#4, 0#4], onBytes_has _ _ _ (by decide),
      by decide +kernel⟩⟩

theorem witness_Hamming84CorrectsOneAndDetectsTwo :
    [0xB4#8, 0x4B#8].length % 2 = 0 ∧ 1 < [0xB4#8, 0x4B#8].length ∧ (0 : Fin 8) ≠ 7 := by decide

/-! ### Commands on samples -/

/-- The configuration with n samples in each interval. -/
def withSpb (n : Nat) : Cfg := { Cfg.reset with spb := BitVec.ofNat 32 n }

/-- n = 0, 1 and 2, with room for the samples and without. -/
theorem witness_LineCodesModulate :
    (∃ (s : State) (bt : List Bit), s.HasBits bt ∧ s.operands.cfg.spb.toNat = 0)
      ∧ (∃ (s : State) (bt : List Bit), s.HasBits bt ∧ s.operands.cfg.spb.toNat = 1
        ∧ bt.length * 1 ≤ s.outCap ∧ bt ≠ [])
      ∧ (∃ (s : State) (bt : List Bit), s.HasBits bt ∧ s.operands.cfg.spb.toNat = 2
        ∧ bt.length * 2 ≤ s.outCap ∧ bt ≠ [])
      ∧ ∃ (s : State) (bt : List Bit), s.HasBits bt ∧ s.operands.cfg.spb.toNat = 2 ∧ s.outCap < bt.length * 2 :=
  ⟨⟨onBits 4 [true] (withSpb 0), [true], onBits_has _ _ _ (by decide), by decide⟩,
    ⟨onBits 1 [true] (withSpb 1), [true], onBits_has _ _ _ (by decide), by decide⟩,
    ⟨onBits 2 [true] (withSpb 2), [true], onBits_has _ _ _ (by decide), by decide⟩,
    ⟨onBits 1 [true] (withSpb 2), [true], onBits_has _ _ _ (by decide), by decide⟩⟩

theorem witness_LineCodesDemodulate :
    (∃ (s : State) (xs : List F64), s.HasSamples xs ∧ s.operands.cfg.spb.toNat = 0)
      ∧ (∃ (s : State) (xs : List F64), s.HasSamples xs ∧ s.operands.cfg.spb.toNat = 1
        ∧ xs.length / 1 ≤ s.outCap ∧ xs ≠ [])
      ∧ (∃ (s : State) (xs : List F64), s.HasSamples xs ∧ s.operands.cfg.spb.toNat = 2
        ∧ xs.length / 2 ≤ s.outCap ∧ xs ≠ [])
      ∧ ∃ (s : State) (xs : List F64), s.HasSamples xs ∧ s.operands.cfg.spb.toNat = 2 ∧ s.outCap < xs.length / 2 :=
  ⟨⟨onSamples 4 [0#64] (withSpb 0), [0#64], onSamples_has _ _ _ (by decide), by decide⟩,
    ⟨onSamples 1 [0#64] (withSpb 1), [0#64], onSamples_has _ _ _ (by decide), by decide⟩,
    ⟨onSamples 1 [0#64, 0#64, 0#64] (withSpb 2), _, onSamples_has _ _ _ (by decide), by decide, by decide, by decide⟩,
    ⟨onSamples 1 [0#64, 0#64, 0#64, 0#64] (withSpb 2), _, onSamples_has _ _ _ (by decide), by decide, by decide⟩⟩

theorem witness_LineCodesRoundTrip : 1 ≤ 2 ∧ 2 ^ 32 - 1 < 2 ^ 32 ∧ 2 ≤ 2 := by decide

theorem witness_UnknownSelectorsEndWithUnknownStrategy : 3 ≤ (3#4).toNat ∧ 4 ≤ (4#4).toNat := by decide

/-- The two tones equal, or no samples, or neither, with room and without. -/
theorem witness_AskAndFskModulate :
    (∃ (s : State) (bt : List Bit), s.HasBits bt ∧ s.operands.cfg.spb.toNat = 0)
      ∧ (∃ (s : State) (bt : List Bit), s.HasBits bt ∧ 1 ≤ s.operands.cfg.spb.toNat
        ∧ s.operands.cfg.f0 = s.operands.cfg.f1)
      ∧ (∃ (s : State) (bt : List Bit), s.HasBits bt ∧ s.operands.cfg.spb.toNat = 1
        ∧ s.operands.cfg.f0 ≠ s.operands.cfg.f1 ∧ bt.length * 1 ≤ s.outCap ∧ bt ≠ [])
      ∧ ∃ (s : State) (bt : List Bit), s.HasBits bt ∧ s.operands.cfg.spb.toNat = 2
        ∧ s.operands.cfg.f0 ≠ s.operands.cfg.f1 ∧ s.outCap < bt.length * 2 :=
  ⟨⟨onBits 4 [true] (withSpb 0), [true], onBits_has _ _ _ (by decide), by decide⟩,
    ⟨onBits 1 [true] { withSpb 1 with f0 := 2#32 }, [true], onBits_has _ _ _ (by decide), by decide⟩,
    ⟨onBits 1 [true] (withSpb 1), [true], onBits_has _ _ _ (by decide), by decide⟩,
    ⟨onBits 1 [true] (withSpb 2), [true], onBits_has _ _ _ (by decide), by decide⟩⟩

theorem witness_AskAndFskDemodulate :
    (∃ (s : State) (xs : List F64), s.HasSamples xs ∧ s.operands.cfg.spb.toNat = 0)
      ∧ (∃ (s : State) (xs : List F64), s.HasSamples xs ∧ 1 ≤ s.operands.cfg.spb.toNat
        ∧ s.operands.cfg.f0 = s.operands.cfg.f1)
      ∧ (∃ (s : State) (xs : List F64), s.HasSamples xs ∧ s.operands.cfg.spb.toNat = 1
        ∧ s.operands.cfg.f0 ≠ s.operands.cfg.f1 ∧ xs.length / 1 ≤ s.outCap ∧ xs ≠ [])
      ∧ ∃ (s : State) (xs : List F64), s.HasSamples xs ∧ s.operands.cfg.spb.toNat = 1
        ∧ s.operands.cfg.f0 ≠ s.operands.cfg.f1 ∧ s.outCap < xs.length / 1 :=
  ⟨⟨onSamples 4 [0#64] (withSpb 0), [0#64], onSamples_has _ _ _ (by decide), by decide⟩,
    ⟨onSamples 1 [0#64] { withSpb 1 with f0 := 2#32 }, [0#64], onSamples_has _ _ _ (by decide), by decide⟩,
    ⟨onSamples 1 [0#64] (withSpb 1), [0#64], onSamples_has _ _ _ (by decide), by decide⟩,
    ⟨onSamples 1 [0#64, 0#64] (withSpb 1), _, onSamples_has _ _ _ (by decide), by decide, by decide, by decide⟩⟩

theorem witness_QpskModulate :
    (∃ (s : State) (bt : List Bit), s.HasBits bt ∧ s.operands.cfg.spb.toNat = 0)
      ∧ (∃ (s : State) (bt : List Bit), s.HasBits bt ∧ s.operands.cfg.spb.toNat = 1
        ∧ (bt.length + 1) / 2 * 1 ≤ s.outCap ∧ bt ≠ [])
      ∧ ∃ (s : State) (bt : List Bit), s.HasBits bt ∧ s.operands.cfg.spb.toNat = 1
        ∧ s.outCap < (bt.length + 1) / 2 * 1 :=
  ⟨⟨onBits 4 [true] (withSpb 0), [true], onBits_has _ _ _ (by decide), by decide⟩,
    ⟨onBits 1 [true, false] (withSpb 1), _, onBits_has _ _ _ (by decide), by decide, by decide, by decide⟩,
    ⟨onBits 1 [true, false, true] (withSpb 1), _, onBits_has _ _ _ (by decide), by decide, by decide⟩⟩

theorem witness_QpskDemodulate :
    (∃ (s : State) (xs : List F64), s.HasSamples xs ∧ s.operands.cfg.spb.toNat = 0)
      ∧ (∃ (s : State) (xs : List F64), s.HasSamples xs ∧ s.operands.cfg.spb.toNat = 1
        ∧ 2 * (xs.length / 1) ≤ s.outCap ∧ xs ≠ [])
      ∧ ∃ (s : State) (xs : List F64), s.HasSamples xs ∧ s.operands.cfg.spb.toNat = 1
        ∧ s.outCap < 2 * (xs.length / 1) :=
  ⟨⟨onSamples 4 [0#64] (withSpb 0), [0#64], onSamples_has _ _ _ (by decide), by decide⟩,
    ⟨onSamples 2 [0#64] (withSpb 1), [0#64], onSamples_has _ _ _ (by decide), by decide⟩,
    ⟨onSamples 1 [0#64] (withSpb 1), [0#64], onSamples_has _ _ _ (by decide), by decide⟩⟩

theorem witness_Qam16Modulate :
    (∃ (s : State) (bt : List Bit), s.HasBits bt ∧ s.operands.cfg.spb.toNat = 0)
      ∧ (∃ (s : State) (bt : List Bit), s.HasBits bt ∧ s.operands.cfg.spb.toNat = 1
        ∧ (bt.length + 3) / 4 * 1 ≤ s.outCap ∧ bt ≠ [])
      ∧ ∃ (s : State) (bt : List Bit), s.HasBits bt ∧ s.operands.cfg.spb.toNat = 1
        ∧ s.outCap < (bt.length + 3) / 4 * 1 :=
  ⟨⟨onBits 4 [true] (withSpb 0), [true], onBits_has _ _ _ (by decide), by decide⟩,
    ⟨onBits 1 [true] (withSpb 1), [true], onBits_has _ _ _ (by decide), by decide⟩,
    ⟨onBits 1 (List.replicate 5 true) (withSpb 1), _, onBits_has _ _ _ (by decide), by decide, by decide⟩⟩

theorem witness_Qam16Demodulate :
    (∃ (s : State) (xs : List F64), s.HasSamples xs ∧ s.operands.cfg.spb.toNat = 0)
      ∧ (∃ (s : State) (xs : List F64), s.HasSamples xs ∧ s.operands.cfg.spb.toNat = 1
        ∧ 4 * (xs.length / 1) ≤ s.outCap ∧ xs ≠ [])
      ∧ ∃ (s : State) (xs : List F64), s.HasSamples xs ∧ s.operands.cfg.spb.toNat = 1
        ∧ s.outCap < 4 * (xs.length / 1) :=
  ⟨⟨onSamples 4 [0#64] (withSpb 0), [0#64], onSamples_has _ _ _ (by decide), by decide⟩,
    ⟨onSamples 4 [0#64] (withSpb 1), [0#64], onSamples_has _ _ _ (by decide), by decide⟩,
    ⟨onSamples 3 [0#64] (withSpb 1), [0#64], onSamples_has _ _ _ (by decide), by decide⟩⟩

/-- Finite operands on both sides of each clause of RoundsTo: the largest value doubled, and the smallest halved. -/
theorem witness_RoundingIsToNearestEven :
    Laws.Finite 0x7FEFFFFFFFFFFFFF#64 ∧ Laws.Finite 0x0000000000000001#64 ∧ Laws.Finite 0x4000000000000000#64
      ∧ fval 0x4000000000000000#64 ≠ 0
      ∧ (2 ^ 54 - 1) * 2 ^ 2044 ≤ (fval 0x7FEFFFFFFFFFFFFF#64 + fval 0x7FEFFFFFFFFFFFFF#64).natAbs
      ∧ fval 0x3FF0000000000000#64 + fval 0xBFF0000000000000#64 = 0
      ∧ 0 < 2 ∧ 2 * (roundQuot 3 2 * 2) = 2 * 3 + 2 ∧ 2 * 5 = 2 * (roundQuot 5 2 * 2) + 2 := by
  unfold Laws.Finite; decide +kernel

/-- Tiny positive sums are decided by the formula of R193 under R10 (log entry 19): with three samples, a sum of one
smallest subnormal gives 0 and one of two gives 1; with two samples, one is a tie and gives 0. -/
theorem test_meanPositive_tiny_sums :
    meanPositive [1#64, 0#64, 0#64] = false ∧ meanPositive [2#64, 0#64, 0#64] = true
      ∧ meanPositive [1#64, 0#64] = false := by
  decide +kernel

/-- Half the smallest subnormal is a tie and rounds to 0, and three halves of it round to its double (R10). -/
theorem test_subnormal_ties :
    fmul 0x0000000000000001#64 0x3FE0000000000000#64 = 0#64
      ∧ fdiv 0x0000000000000003#64 0x4000000000000000#64 = 0x0000000000000002#64
      ∧ fadd 0x7FEFFFFFFFFFFFFF#64 0x7FEFFFFFFFFFFFFF#64 = 0x7FF0000000000000#64 := by
  decide +kernel

/-- The boundary integers, and a NaN, the infinities, a finite value and the zeros for the clauses of the special
values. -/
theorem witness_SmallIntegersAreExact :
    2 ^ 53 - 1 < 2 ^ 53 ∧ 0 < 2 ^ 53 ∧ 2 ^ 53 - 1 + 0 < 2 ^ 53
      ∧ isNan 0x7FF0000000000001#64 = true ∧ isInf 0x7FF0000000000000#64 = true ∧ isInf 0xFFF0000000000000#64 = true
      ∧ isNan 0xFFF0000000000000#64 = false ∧ fval 0xFFF0000000000000#64 ≠ 0 ∧ Laws.Finite 0x3FF0000000000000#64
      ∧ fval 0x3FF0000000000000#64 ≠ 0 ∧ Laws.Finite 0#64 ∧ fval 0x8000000000000000#64 = 0 := by
  unfold Laws.Finite; decide +kernel

end Sys2Proof.Tests
end

section
/-! The invariant `State.Inv` is kept by every step: one lemma for each change of the state a step can make
(`exec_cases`, `writeReg_cases`, `hostOp_next`), put together along `step_next`. -/

namespace Sys2Proof.Machine

/-- A length within a legal capacity fits in the 32 bits of OUT_LEN, so it is stored exactly
(00_scope.md R5; 60_exceptions.md R255). -/
theorem toNat_ofNat_of_le_cap {n cap : Nat} (hn : n ≤ cap) (hcap : cap < 2 ^ 32) : (BitVec.ofNat 32 n).toNat = n := by
  simp only [BitVec.toNat_ofNat]
  omega

/-- An IDLE engine latches nothing, so its latched copy is current. -/
theorem latchedCurrent_of_idle {s : State} (h : s.engine = .idle) :
    ∀ l wait, s.engine = .busy l wait → l = s.snapshot := by
  intro l wait hb
  rw [h] at hb
  cases hb

/-- Completion with a result that fits in OUT keeps the invariant (60_exceptions.md R255). -/
theorem State.Inv.completeOk {s : State} (h : s.Inv) {out : List Word} (hout : out.length ≤ s.outCap) :
    (s.completeOk out).Inv where
  inCapLegal := h.inCapLegal
  outCapLegal := h.outCapLegal
  inCanonical := h.inCanonical
  outCanonical := memOfList_wf out
  inWithin := h.inWithin
  outMarks i := by
    simp [toNat_ofNat_of_le_cap hout h.outCapLegal.2]
  outFits := by
    simpa [toNat_ofNat_of_le_cap hout h.outCapLegal.2] using hout
  status := ⟨by simp [State.isBusy], by simp, by simp⟩
  errorLeavesNothing := by simp
  latchedCurrent := latchedCurrent_of_idle rfl

/-- Completion with an error keeps the invariant: OUT is empty and ERRCODE is a code (60_exceptions.md R255, R257). -/
theorem State.Inv.completeErr {s : State} (h : s.Inv) (c : ErrCode) : (s.completeErr c).Inv where
  inCapLegal := h.inCapLegal
  outCapLegal := h.outCapLegal
  inCanonical := h.inCanonical
  outCanonical := List.Pairwise.nil
  inWithin := h.inWithin
  outMarks i := by simp
  outFits := by simp
  status := ⟨by simp [State.isBusy], by simp, fun _ => c.code_range⟩
  errorLeavesNothing _ := rfl
  latchedCurrent := latchedCurrent_of_idle rfl

/-- EXEC of any command keeps the invariant: it completes with a result that fits or with an error. -/
theorem State.Inv.of_exec {s t : State} (h : s.Inv) {i : Instr} (hx : exec i s = .next t) : t.Inv := by
  rcases exec_cases i s with ⟨hf, -⟩ | ⟨c, he⟩ | ⟨out, hout, ho⟩
  · rw [hf] at hx; cases hx
  · rw [he] at hx; cases hx; exact h.completeErr c
  · rw [ho] at hx; cases hx; exact h.completeOk hout

/-- START keeps the invariant: the copy it latches is the snapshot of the state it leaves (10_state.md R43). -/
theorem State.Inv.start {s : State} (h : s.Inv) : s.start.Inv where
  inCapLegal := h.inCapLegal
  outCapLegal := h.outCapLegal
  inCanonical := h.inCanonical
  outCanonical := h.outCanonical
  inWithin := h.inWithin
  outMarks := h.outMarks
  outFits := h.outFits
  status := ⟨by simp [State.isBusy], by simp, by simp⟩
  errorLeavesNothing := by simp
  latchedCurrent l wait hb := by
    have hs : s.start.snapshot = s.snapshot := State.snapshot_congr rfl rfl rfl rfl
    rw [State.start_engine] at hb
    cases hb
    exact hs.symm

/-- SOFT_RESET keeps the invariant: the capacities stay and everything else is as after power-on (R283). -/
theorem State.Inv.softReset {s : State} (h : s.Inv) : s.softReset.Inv where
  inCapLegal := h.inCapLegal
  outCapLegal := h.outCapLegal
  inCanonical := reset_memory_wf.1
  outCanonical := reset_memory_wf.2
  inWithin c hc := nomatch hc
  outMarks i := by simp [State.softReset, State.reset]
  outFits := by simp [State.softReset, State.reset]
  status := ⟨by simp [State.softReset, State.reset, State.isBusy], fun _ => rfl, nofun⟩
  errorLeavesNothing _ := rfl
  latchedCurrent := latchedCurrent_of_idle rfl

/-- While the engine is IDLE, CMD, IN_LEN and the configuration are free: no clause of the invariant reads them. -/
theorem State.Inv.writeOperands {s : State} (h : s.Inv) (hi : s.engine = .idle) (cmd : CmdWord) (inLen : BitVec 32)
    (cfg : Cfg) : State.Inv { s with cmd := cmd, inLen := inLen, cfg := cfg } :=
  { h with status := ⟨h.status.combination, h.status.noError, h.status.someError⟩
           latchedCurrent := latchedCurrent_of_idle hi }

/-- A write of a register of an IDLE block keeps the invariant. -/
theorem State.Inv.writeReg {s : State} (h : s.Inv) (hi : s.engine = .idle) (v : Word) (r : Reg) :
    (s.writeReg v r).Inv := by
  rcases writeReg_cases s v r with hw | hw | ⟨cmd, inLen, cfg, hw⟩ <;> rw [hw]
  · exact h.start
  · exact h.softReset
  · exact h.writeOperands hi cmd inLen cfg

/-- A write below IN_CAP to IN of an IDLE block keeps the invariant (20_memory.md R52). -/
theorem State.Inv.writeIn {s : State} (h : s.Inv) (hi : s.engine = .idle) {i : Nat} (hlt : i < s.inCap) (v : Word) :
    State.Inv { s with inBuf := memWrite s.inBuf i v } :=
  { h with
    inCanonical := memWrite_wf h.inCanonical i v
    inWithin := fun c hc => by
      rcases mem_memWrite hc with rfl | hc
      · exact hlt
      · exact h.inWithin c hc
    status := ⟨h.status.combination, h.status.noError, h.status.someError⟩
    latchedCurrent := latchedCurrent_of_idle hi }

/-- No clause of the invariant reads what the host holds. -/
theorem State.Inv.changeHost {s : State} (h : s.Inv) (script : List HostOp) (reads : List Word) :
    State.Inv { s with script := script, reads := reads } :=
  { h with status := ⟨h.status.combination, h.status.noError, h.status.someError⟩ }

/-- A tick leaves the latched copy as it is. -/
theorem Engine.tick_eq_busy {e : Engine} {l : Latched} {w : Nat} (h : e.tick = .busy l w) : ∃ w', e = .busy l w' := by
  cases e with
  | idle => cases h
  | busy l' w' => cases h; exact ⟨w', rfl⟩

/-- Taking the host's next operation keeps the invariant: only the wait of the engine and the script change. -/
theorem State.Inv.takeOp {s : State} (h : s.Inv) (rest : List HostOp) : (s.takeOp rest).Inv :=
  { h with
    status := ⟨by rw [State.takeOp_isBusy]; exact h.status.combination, h.status.noError, h.status.someError⟩
    latchedCurrent := fun l wait hb => by
      obtain ⟨w, he⟩ := Engine.tick_eq_busy hb
      exact h.latchedCurrent l w he }

/-- A host operation that answers next keeps the invariant. -/
theorem State.Inv.of_hostOp {s t : State} (h : s.Inv) {op : HostOp} (ho : hostOp op s = .next t) : t.Inv := by
  rcases hostOp_next ho with ⟨hb, v, r, rfl⟩ | ⟨hb, i, v, hi, rfl⟩ | ⟨script, reads, rfl⟩
  · exact h.writeReg (State.engine_of_not_busy hb) v r
  · exact h.writeIn (State.engine_of_not_busy hb) hi v
  · exact h.changeHost script reads

/-- Settles O12: every change a step can make keeps each clause of the invariant. -/
theorem everyStepKeepsTheInvariant : Obligations.EveryStepKeepsTheInvariant := by
  intro s t h hs
  rcases step_next hs with ⟨l, wait, -, hx⟩ | ⟨op, rest, -, ho⟩ | rfl
  · exact h.of_exec hx
  · exact (h.takeOp rest).of_hostOp ho
  · exact h

end Sys2Proof.Machine
end

section
/-! Binary64 patterns: the fields of a pattern as arithmetic on its number, what `fpack` and `negf` do to them, and how
a magnitude is read (00_scope.md R10). -/

namespace Sys2Proof.Machine

/-! ## Fields -/

theorem fexp_eq (x : F64) : fexp x = x.toNat / 2 ^ 52 % 2048 := by
  simp [fexp, BitVec.extractLsb'_toNat, Nat.shiftRight_eq_div_pow]

theorem ffrac_eq (x : F64) : ffrac x = x.toNat % 2 ^ 52 := by
  simp [ffrac, BitVec.extractLsb'_toNat]

theorem fsign_eq (x : F64) : fsign x = decide (2 ^ 63 ≤ x.toNat) := by
  simpa [fsign, BitVec.msb_eq_getLsbD_last] using BitVec.msb_eq_decide x

theorem ffrac_lt (x : F64) : ffrac x < 2 ^ 52 := by
  rw [ffrac_eq]
  exact Nat.mod_lt _ (by decide)

theorem isNan_iff (x : F64) : isNan x = true ↔ fexp x = 2047 ∧ ffrac x ≠ 0 := by simp [isNan]

theorem isInf_iff (x : F64) : isInf x = true ↔ fexp x = 2047 ∧ ffrac x = 0 := by simp [isInf]

theorem finite_iff (x : F64) : Laws.Finite x ↔ fexp x ≠ 2047 := by rw [fexp_eq]; rfl

/-- An infinity is no NaN. -/
theorem isNan_of_isInf {x : F64} (h : isInf x = true) : isNan x = false := by
  simp [isNan, ((isInf_iff x).1 h).2]

theorem isNan_of_finite {x : F64} (h : Laws.Finite x) : isNan x = false := by
  simp [isNan, (finite_iff x).1 h]

theorem isInf_of_finite {x : F64} (h : Laws.Finite x) : isInf x = false := by
  simp [isInf, (finite_iff x).1 h]

/-! ## Packing -/

section
variable (sign : Bool) {m : Nat}

theorem fpack_toNat (hm : m < 2 ^ 63) : (fpack sign m).toNat = (if sign then 2 ^ 63 else 0) + m := by
  cases sign <;> simp [fpack] <;> omega

@[simp] theorem fsign_fpack (hm : m < 2 ^ 63) : fsign (fpack sign m) = sign := by
  rw [fsign_eq, fpack_toNat sign hm]
  cases sign
  · simpa using hm
  · simp

@[simp] theorem fexp_fpack (hm : m < 2 ^ 63) : fexp (fpack sign m) = m / 2 ^ 52 := by
  rw [fexp_eq, fpack_toNat sign hm]
  split <;> omega

@[simp] theorem ffrac_fpack (hm : m < 2 ^ 63) : ffrac (fpack sign m) = m % 2 ^ 52 := by
  rw [ffrac_eq, fpack_toNat sign hm]
  split <;> omega

/-- The last bit of a pattern is that of its lower fields. -/
theorem fpack_getLsbD_zero (hm : m < 2 ^ 63) : (fpack sign m).getLsbD 0 = decide (m % 2 = 1) := by
  rw [BitVec.getLsbD, fpack_toNat sign hm, Nat.testBit_zero, decide_eq_decide]
  split <;> omega

/-- Lower fields below those of the infinity make a finite pattern. -/
theorem finite_fpack (hm : m < 2047 * 2 ^ 52) : Laws.Finite (fpack sign m) := by
  rw [finite_iff, fexp_fpack sign (by omega)]
  omega

theorem finf_eq : finf sign = if sign then 0xFFF0000000000000#64 else 0x7FF0000000000000#64 := by
  cases sign <;> rfl

theorem fzero_eq : fzero sign = if sign then 0x8000000000000000#64 else 0#64 := by
  cases sign <;> rfl

end

/-! ## The flipped sign -/

@[simp] theorem fsign_negf (x : F64) : fsign (negf x) = !fsign x := by
  simp [fsign, negf]

@[simp] theorem fexp_negf (x : F64) : fexp (negf x) = fexp x := by
  simp [fexp, negf, BitVec.extractLsb'_xor]

@[simp] theorem ffrac_negf (x : F64) : ffrac (negf x) = ffrac x := by
  simp [ffrac, negf, BitVec.extractLsb'_xor]

@[simp] theorem fmag_negf (x : F64) : fmag (negf x) = fmag x := by simp [fmag]

@[simp] theorem fval_negf (x : F64) : fval (negf x) = -fval x := by
  cases h : fsign x <;> simp [fval, h]

@[simp] theorem isInf_negf (x : F64) : isInf (negf x) = isInf x := by simp [isInf]

/-! ## Magnitudes and values -/

@[simp] theorem natAbs_fval (x : F64) : (fval x).natAbs = fmag x := by
  cases h : fsign x <;> simp [fval, h]

theorem fval_eq_zero (x : F64) : fval x = 0 ↔ fmag x = 0 := by
  rw [← Int.natAbs_eq_zero, natAbs_fval]

/-- A magnitude is an integer below 2^53 scaled by a power of two. -/
theorem fmag_eq_scaled (x : F64) : ∃ j < 2 ^ 53, fmag x = j * 2 ^ (fexp x - 1) := by
  have hf := ffrac_lt x
  by_cases he : fexp x = 0
  · exact ⟨ffrac x, by omega, by simp [fmag, he]⟩
  · exact ⟨2 ^ 52 + ffrac x, by omega, by simp [fmag, he]⟩

/-- The magnitude of the lower fields `shift * 2^52 + k`. The bound of k includes the carry out of the fraction, where
the exponent field steps by one more. -/
theorem fmag_fpack (sign : Bool) {shift k : Nat} (hm : shift * 2 ^ 52 + k < 2 ^ 63) (hk : k ≤ 2 ^ 53)
    (hn : shift = 0 ∨ 2 ^ 52 ≤ k) : fmag (fpack sign (shift * 2 ^ 52 + k)) = k * 2 ^ shift := by
  rw [fmag, fexp_fpack sign hm, ffrac_fpack sign hm]
  by_cases hsub : k < 2 ^ 52
  · obtain rfl : shift = 0 := by omega
    rw [if_pos (by omega)]
    omega
  rw [if_neg (by omega)]
  by_cases hcarry : k = 2 ^ 53
  · rw [show (shift * 2 ^ 52 + k) / 2 ^ 52 - 1 = shift + 1 by omega,
      show (shift * 2 ^ 52 + k) % 2 ^ 52 = 0 by omega, hcarry, pow_succ 2 shift, pow_succ 2 52]
    ring
  · rw [show (shift * 2 ^ 52 + k) / 2 ^ 52 - 1 = shift by omega,
      show 2 ^ 52 + (shift * 2 ^ 52 + k) % 2 ^ 52 = k by omega]

end Sys2Proof.Machine
end

section
/-! Rounding to nearest, ties to even: what `roundQuot` and `roundMag` give, and from there that a packed magnitude is
the rounded value (`Laws.RoundsTo`, 00_scope.md R10). -/

namespace Sys2Proof.Machine

/-! ## Rounding to an integer -/

section
variable {p q : Nat}

/-- The rounded quotient is within half of the exact one, and even where it is exactly half away. -/
theorem roundQuot_spec (hq : 0 < q) :
    2 * (roundQuot p q * q) ≤ 2 * p + q ∧ 2 * p ≤ 2 * (roundQuot p q * q) + q
      ∧ ((2 * (roundQuot p q * q) = 2 * p + q ∨ 2 * p = 2 * (roundQuot p q * q) + q) → roundQuot p q % 2 = 0) := by
  have hp : p / q * q + p % q = p := by rw [Nat.mul_comm]; exact Nat.div_add_mod p q
  have hr : p % q < q := Nat.mod_lt _ hq
  simp only [roundQuot]
  split
  · rw [Nat.add_mul]
    omega
  · omega

/-- An integer at or below the quotient is at or below the rounded one. -/
theorem le_roundQuot (hq : 0 < q) {j : Nat} (h : j * q ≤ p) : j ≤ roundQuot p q := by
  obtain ⟨-, hup, -⟩ := roundQuot_spec (p := p) hq
  by_contra hlt
  have : (roundQuot p q + 1) * q ≤ j * q := Nat.mul_le_mul_right q (by omega)
  rw [Nat.add_mul] at this
  omega

/-- An integer at or above the quotient is at or above the rounded one. -/
theorem roundQuot_le (hq : 0 < q) {j : Nat} (h : p ≤ j * q) : roundQuot p q ≤ j := by
  obtain ⟨hlow, -, -⟩ := roundQuot_spec (p := p) hq
  by_contra hlt
  have : (j + 1) * q ≤ roundQuot p q * q := Nat.mul_le_mul_right q (by omega)
  rw [Nat.add_mul] at this
  omega

/-- No integer is nearer to the quotient than the rounded one, which is even where another is as near. -/
theorem roundQuot_nearest (hq : 0 < q) (j : Nat) :
    Nat.dist (roundQuot p q * q) p ≤ Nat.dist (j * q) p
      ∧ (j ≠ roundQuot p q → Nat.dist (roundQuot p q * q) p = Nat.dist (j * q) p →
          roundQuot p q % 2 = 0) := by
  obtain ⟨hlow, hup, heven⟩ := roundQuot_spec (p := p) hq
  unfold Nat.dist
  rcases Nat.lt_trichotomy j (roundQuot p q) with hj | rfl | hj
  · have hstep : (j + 1) * q ≤ roundQuot p q * q := Nat.mul_le_mul_right q hj
    rw [Nat.add_mul] at hstep
    omega
  · omega
  · have hstep : (roundQuot p q + 1) * q ≤ j * q := Nat.mul_le_mul_right q hj
    rw [Nat.add_mul] at hstep
    omega

end

/-! ## Rounding to a magnitude -/

/-- The power of two, in units of 2^-1074, to whose multiples the magnitude p / q is rounded. -/
def roundShift (p q : Nat) : Nat := Nat.log2 (p / q) - 52

/-- The multiple of that power the magnitude p / q is rounded to. -/
def roundSig (p q : Nat) : Nat := roundQuot p (q * 2 ^ roundShift p q)

/-- Half a unit past the largest finite value, times q. Irreducible, so that no check tries to evaluate its power. -/
@[irreducible] def overflowBound (q : Nat) : Nat := (2 ^ 54 - 1) * 2 ^ 2044 * q

theorem overflowBound_eq (q : Nat) : overflowBound q = (2 ^ 54 - 1) * (2 ^ 2044 * q) := by
  rw [overflowBound, Nat.mul_assoc]

theorem overflowBound_pos {q : Nat} (hq : 0 < q) : 0 < overflowBound q := by
  rw [overflowBound]
  positivity

theorem roundMag_eq (p q : Nat) :
    roundMag p q = min (roundShift p q * 2 ^ 52 + roundSig p q) 0x7FF0000000000000 := rfl

section
variable {p q : Nat} (hq : 0 < q)
include hq

/-- The quotient in units of its shift has at most 53 bits. -/
theorem lt_of_roundShift : p < 2 ^ 53 * (q * 2 ^ roundShift p q) := by
  have hlog : p / q < 2 ^ (Nat.log2 (p / q) + 1) := Nat.lt_log2_self
  have hpow : 2 ^ (Nat.log2 (p / q) + 1) ≤ 2 ^ (53 + roundShift p q) :=
    Nat.pow_le_pow_right (by decide) (by simp only [roundShift]; omega)
  have hp : p < 2 ^ (53 + roundShift p q) * q := (Nat.div_lt_iff_lt_mul hq).1 (hlog.trans_le hpow)
  calc p < 2 ^ (53 + roundShift p q) * q := hp
    _ = 2 ^ 53 * (q * 2 ^ roundShift p q) := by rw [Nat.pow_add]; ac_rfl

/-- Where the quotient is shifted at all, it keeps 53 bits. -/
theorem le_of_roundShift (hs : 0 < roundShift p q) : 2 ^ 52 * (q * 2 ^ roundShift p q) ≤ p := by
  have hlog : 52 + roundShift p q = Nat.log2 (p / q) := by simp only [roundShift] at hs ⊢; omega
  have hpos : p / q ≠ 0 := by
    intro h0
    simp [roundShift, h0] at hs
  have hle : 2 ^ (52 + roundShift p q) ≤ p / q := by rw [hlog]; exact Nat.log2_self_le hpos
  calc 2 ^ 52 * (q * 2 ^ roundShift p q) = 2 ^ (52 + roundShift p q) * q := by rw [Nat.pow_add]; ac_rfl
    _ ≤ p := (Nat.le_div_iff_mul_le hq).1 hle

theorem roundSig_le : roundSig p q ≤ 2 ^ 53 :=
  roundQuot_le (by positivity) (lt_of_roundShift hq).le

/-- Above the subnormals the rounded magnitude has its leading bit. -/
theorem roundSig_normal : roundShift p q = 0 ∨ 2 ^ 52 ≤ roundSig p q := by
  rcases Nat.eq_zero_or_pos (roundShift p q) with h0 | hpos
  · exact .inl h0
  · exact .inr (le_roundQuot (by positivity) (le_of_roundShift hq hpos))

/-- No magnitude is nearer to p / q than the rounded one, whose last bit is 0 where another is as near: the magnitudes
at least as coarse as the rounded one are multiples of its unit, and the finer ones all lie below its leading bit. -/
theorem roundSig_nearest {j : Nat} (t : Nat) (hj : j < 2 ^ 53) :
    Nat.dist (roundSig p q * 2 ^ roundShift p q * q) p ≤ Nat.dist (j * 2 ^ t * q) p
      ∧ (j * 2 ^ t ≠ roundSig p q * 2 ^ roundShift p q →
          Nat.dist (roundSig p q * 2 ^ roundShift p q * q) p = Nat.dist (j * 2 ^ t * q) p →
          roundSig p q % 2 = 0) := by
  have hQ : 0 < q * 2 ^ roundShift p q := by positivity
  have hunit (i : Nat) : i * 2 ^ roundShift p q * q = i * (q * 2 ^ roundShift p q) := by ac_rfl
  rcases Nat.lt_or_ge t (roundShift p q) with hfine | hcoarse
  · obtain ⟨hnear, -⟩ := roundQuot_nearest (p := p) hQ (2 ^ 52)
    have hlead := le_of_roundShift (p := p) hq (by omega)
    have hbelow : j * 2 ^ t * q < 2 ^ 52 * (q * 2 ^ roundShift p q) := by
      calc j * 2 ^ t * q < 2 ^ 53 * 2 ^ t * q := by gcongr
        _ = 2 ^ 52 * (q * 2 ^ (t + 1)) := by ring
        _ ≤ 2 ^ 52 * (q * 2 ^ roundShift p q) :=
          Nat.mul_le_mul_left _ (Nat.mul_le_mul_left q (Nat.pow_le_pow_right (by decide) hfine))
    rw [hunit, roundSig]
    unfold Nat.dist at hnear ⊢
    omega
  · obtain ⟨d, rfl⟩ := Nat.exists_eq_add_of_le hcoarse
    obtain ⟨hnear, heven⟩ := roundQuot_nearest (p := p) hQ (j * 2 ^ d)
    have hscale : j * 2 ^ (roundShift p q + d) = j * 2 ^ d * 2 ^ roundShift p q := by rw [Nat.pow_add]; ac_rfl
    rw [hscale, hunit, hunit]
    exact ⟨hnear, fun hne => heven fun heq => hne (by rw [heq, roundSig])⟩

/-- The rounded magnitude reaches the infinity exactly from half a unit past the largest finite value on. -/
theorem roundMag_overflow :
    2047 * 2 ^ 52 ≤ roundShift p q * 2 ^ 52 + roundSig p q ↔ overflowBound q ≤ p := by
  have hsig := roundSig_le (p := p) hq
  have hlt := lt_of_roundShift (p := p) hq
  have hmono {m n : Nat} (h : m ≤ n) : q * 2 ^ m ≤ q * 2 ^ n :=
    Nat.mul_le_mul_left q (Nat.pow_le_pow_right (by decide) h)
  have hdouble (n : Nat) : q * 2 ^ (n + 1) = 2 * (2 ^ n * q) := by ring
  rw [overflowBound_eq]
  rcases Nat.lt_trichotomy (roundShift p q) 2045 with hs | hs | hs
  · -- below the last binade
    have hfiner : q * 2 ^ roundShift p q ≤ 2 ^ 2044 * q := by
      rw [Nat.mul_comm _ q]
      exact hmono (by omega)
    generalize 2 ^ 2044 * q = B at *
    omega
  · -- in the last binade: the half-way point is the tie that the odd largest value loses
    have hQ : q * 2 ^ roundShift p q = 2 * (2 ^ 2044 * q) := by rw [hs, hdouble]
    obtain ⟨hlow, hup, heven⟩ := roundQuot_spec (p := p) (q := q * 2 ^ roundShift p q) (by positivity)
    rw [← roundSig, hQ] at hlow hup heven
    generalize 2 ^ 2044 * q = B at *
    constructor
    · intro hinf
      have hk : 2 ^ 53 * (2 * B) ≤ roundSig p q * (2 * B) := Nat.mul_le_mul_right _ (by omega)
      omega
    · intro hp
      by_contra hfin
      have hk : roundSig p q * (2 * B) ≤ (2 ^ 53 - 1) * (2 * B) := Nat.mul_le_mul_right _ (by omega)
      have hlast : roundSig p q = 2 ^ 53 - 1 := by
        by_contra hne
        have hk' : roundSig p q * (2 * B) ≤ (2 ^ 53 - 2) * (2 * B) := Nat.mul_le_mul_right _ (by omega)
        omega
      have htie := heven (.inr (by omega))
      omega
  · -- past the last binade
    have hlead := le_of_roundShift (p := p) hq (by omega)
    have hnormal := roundSig_normal (p := p) hq
    have hcoarser (n : Nat) (hn : n + 2 ≤ roundShift p q) : 4 * (2 ^ n * q) ≤ q * 2 ^ roundShift p q :=
      calc 4 * (2 ^ n * q) = q * 2 ^ (n + 2) := by ring
        _ ≤ q * 2 ^ roundShift p q := hmono hn
    have hpast := hcoarser 2044 hs
    generalize 2 ^ 2044 * q = B at *
    omega

end

/-! ## The rounded value -/

/-- The lower fields are at most those of an infinity, so they leave the sign bit alone. -/
theorem roundMag_lt (p q : Nat) : roundMag p q < 2 ^ 63 := by
  rw [roundMag_eq]
  omega

section
variable {p q : Nat} (hq : 0 < q) (hp : p < overflowBound q)
include hq hp

/-- Below the overflow bound the lower fields are those of the rounded magnitude. -/
theorem roundMag_of_lt :
    roundMag p q = roundShift p q * 2 ^ 52 + roundSig p q
      ∧ roundShift p q * 2 ^ 52 + roundSig p q < 2047 * 2 ^ 52 := by
  have hfin := (roundMag_overflow (p := p) hq).not.2 (Nat.not_le.2 hp)
  rw [roundMag_eq]
  omega

theorem finite_fpack_roundMag (sign : Bool) : Laws.Finite (fpack sign (roundMag p q)) := by
  obtain ⟨heq, hlt⟩ := roundMag_of_lt hq hp
  exact finite_fpack sign (heq ▸ hlt)

theorem fmag_fpack_roundMag (sign : Bool) :
    fmag (fpack sign (roundMag p q)) = roundSig p q * 2 ^ roundShift p q := by
  obtain ⟨heq, hlt⟩ := roundMag_of_lt hq hp
  rw [heq]
  exact fmag_fpack sign (by omega) (roundSig_le hq) (roundSig_normal hq)

/-- No pattern's magnitude is nearer to p / q than that of the packed one, whose last bit is 0 where another is as
near. -/
theorem fpack_roundMag_nearest {sign : Bool} {x : F64} (hx : x = fpack sign (roundMag p q)) (y : F64) :
    Nat.dist (fmag x * q) p ≤ Nat.dist (fmag y * q) p
      ∧ (fmag y ≠ fmag x → Nat.dist (fmag x * q) p = Nat.dist (fmag y * q) p →
          x.getLsbD 0 = false) := by
  obtain ⟨j, hj, hy⟩ := fmag_eq_scaled y
  obtain ⟨hnear, heven⟩ := roundSig_nearest (p := p) hq (fexp y - 1) hj
  obtain ⟨heq, -⟩ := roundMag_of_lt hq hp
  rw [hx, fmag_fpack_roundMag hq hp, hy]
  refine ⟨hnear, fun hne htie => ?_⟩
  have hbit := heven hne htie
  rw [fpack_getLsbD_zero sign (roundMag_lt p q), heq, decide_eq_false_iff_not]
  omega

/-- A magnitude that needs no rounding is kept. -/
theorem fmag_fpack_roundMag_exact (sign : Bool) {v j t : Nat} (hj : j < 2 ^ 53) (hv : v = j * 2 ^ t)
    (hexact : p = v * q) : fmag (fpack sign (roundMag p q)) = v := by
  obtain ⟨hnear, -⟩ := roundSig_nearest (p := p) hq t hj
  rw [fmag_fpack_roundMag hq hp]
  refine Nat.eq_of_mul_eq_mul_right hq ?_
  rw [← hv, ← hexact, Nat.dist_self] at hnear
  exact (Nat.eq_of_dist_eq_zero (Nat.le_zero.1 hnear)).trans hexact

end

/-- How far a value is from ± p / q, times q: by magnitude where the signs agree, and through zero where they do
not. -/
theorem natAbs_fval_sub (y : F64) (sign : Bool) (p q : Nat) :
    (fval y * q - (if sign then -(p : Int) else p)).natAbs =
      if fsign y = sign then Nat.dist (fmag y * q) p else fmag y * q + p := by
  have hn : (fmag y : Int) * q = (fmag y * q : Nat) := by push_cast; rfl
  rw [fval, ite_mul, Int.neg_mul, hn]
  generalize fmag y * q = n
  unfold Nat.dist
  cases fsign y <;> cases sign <;> simp only [if_true, if_false, Bool.false_eq_true, reduceCtorEq] <;> omega

/-- Patterns of one sign have the same value exactly when they have the same magnitude. -/
theorem fval_eq_iff_of_fsign {x y : F64} (h : fsign x = fsign y) : fval x = fval y ↔ fmag x = fmag y := by
  rw [fval, fval, h]
  split <;> omega

/-- No value is nearer to ± p / q than that of the packed magnitude, whose last bit is 0 where another is as near: a
value of the other sign is no nearer than zero is. -/
theorem fpack_roundMag_nearest_signed {sign : Bool} {p q : Nat} (hq : 0 < q) (hp : p < overflowBound q) {x : F64}
    (hx : x = fpack sign (roundMag p q)) (y : F64) :
    let v : Int := if sign then -(p : Int) else p
    (fval x * q - v).natAbs ≤ (fval y * q - v).natAbs
      ∧ (fval y ≠ fval x → (fval x * q - v).natAbs = (fval y * q - v).natAbs → x.getLsbD 0 = false) := by
  intro v
  have hsign : fsign x = sign := by rw [hx, fsign_fpack sign (roundMag_lt p q)]
  rw [natAbs_fval_sub, natAbs_fval_sub, if_pos hsign]
  by_cases hy : fsign y = sign
  · rw [if_pos hy, Ne, fval_eq_iff_of_fsign (hy.trans hsign.symm)]
    exact fpack_roundMag_nearest hq hp hx y
  · obtain ⟨hzero, heven⟩ := fpack_roundMag_nearest hq hp hx 0#64
    have hmag0 : fmag 0#64 = 0 := by decide
    rw [hmag0] at hzero heven
    rw [if_neg hy]
    unfold Nat.dist at *
    refine ⟨by omega, fun hne htie => heven (fun h0 => hne ?_) (by omega)⟩
    have hyq : fmag y * q = 0 := by omega
    have hy0 : fmag y = 0 := (Nat.mul_eq_zero.1 hyq).resolve_right hq.ne'
    rw [(fval_eq_zero y).2 hy0, (fval_eq_zero x).2 h0.symm]

/-- From the overflow bound on the packed magnitude is the infinity. -/
theorem fpack_roundMag_overflow (sign : Bool) {p q : Nat} (hq : 0 < q) (hinf : overflowBound q ≤ p) :
    fpack sign (roundMag p q) = finf sign := by
  have hcode := (roundMag_overflow hq).2 hinf
  rw [finf, roundMag_eq, Nat.min_eq_right (by omega)]

/-- `Laws.RoundsTo` by its two cases. Proofs go through this form: Lean would try to evaluate the power in the other's
condition. -/
structure IsRounding (x : F64) (p : Int) (q : Nat) : Prop where
  overflow : overflowBound q ≤ p.natAbs → x = finf (decide (p < 0))
  finite : ¬ overflowBound q ≤ p.natAbs → Laws.Finite x
  nearest : ¬ overflowBound q ≤ p.natAbs → ∀ y : F64, Laws.Finite y →
    (fval x * q - p).natAbs ≤ (fval y * q - p).natAbs
      ∧ (fval y ≠ fval x → (fval x * q - p).natAbs = (fval y * q - p).natAbs → x.getLsbD 0 = false)

theorem roundsTo_iff_isRounding {x : F64} {p : Int} {q : Nat} : Laws.RoundsTo x p q ↔ IsRounding x p q := by
  rw [Laws.RoundsTo, ite_prop_iff_and, ← overflowBound]
  constructor
  · rintro ⟨hinf, hfin⟩
    exact ⟨fun h => by rw [hinf h, finf_eq]; simp, fun h => (hfin h).1, fun h => (hfin h).2⟩
  · rintro ⟨hinf, hfin, hnear⟩
    exact ⟨fun h => by rw [hinf h, finf_eq]; simp, fun h => ⟨hfin h, hnear h⟩⟩

/-- A packed magnitude is the rounding of ± p / q. -/
theorem isRounding_fpack (sign : Bool) (p : Nat) {q : Nat} (hq : 0 < q) :
    IsRounding (fpack sign (roundMag p q)) (if sign then -(p : Int) else p) q := by
  have habs : (if sign then -(p : Int) else p).natAbs = p := by cases sign <;> simp
  constructor <;> rw [habs]
  case overflow =>
    intro hinf
    have hpos : 0 < p := (overflowBound_pos hq).trans_le hinf
    have hneg : decide ((if sign then -(p : Int) else p) < 0) = sign := by cases sign <;> simp [hpos]
    rw [hneg, fpack_roundMag_overflow sign hq hinf]
  case finite => exact fun hfin => finite_fpack_roundMag hq (Nat.not_le.1 hfin) sign
  case nearest => exact fun hfin y _ => fpack_roundMag_nearest_signed hq (Nat.not_le.1 hfin) rfl y

end Sys2Proof.Machine
end

section
/-! The four binary64 operations on finite operands: the exact result rounded once, and its sign (00_scope.md R10). -/

namespace Sys2Proof.Machine

/-- A value is its magnitude with its sign. -/
theorem fval_eq (x : F64) : fval x = if fsign x then -(fmag x : Int) else fmag x := rfl

/-- A packed zero magnitude is the zero of its sign. -/
theorem fpack_roundMag_zero (sign : Bool) (q : Nat) : fpack sign (roundMag 0 q) = fzero sign := by
  simp [roundMag, roundQuot, fzero]

section
variable {a b : F64}

/-! ## Sums -/

/-- An exact sum of zero is +0.0 unless both operands are -0.0. -/
theorem addFinite_zero (h : fval a + fval b = 0) : addFinite a b = fzero (fsign a && fsign b) := by
  simp [addFinite, h]

/-- An exact sum that is not zero is rounded once. -/
theorem addFinite_nonzero (h : fval a + fval b ≠ 0) :
    addFinite a b = fpack (decide (fval a + fval b < 0)) (roundMag (fval a + fval b).natAbs 1) := by
  simp [addFinite, h]

theorem isRounding_addFinite (a b : F64) : IsRounding (addFinite a b) (fval a + fval b) 1 := by
  by_cases h : fval a + fval b = 0
  · have hzero := isRounding_fpack (fsign a && fsign b) 0 (q := 1) (by decide)
    rw [fpack_roundMag_zero, Nat.cast_zero, neg_zero, ite_self] at hzero
    rwa [addFinite_zero h, h]
  · have hsum := isRounding_fpack (decide (fval a + fval b < 0)) (fval a + fval b).natAbs (q := 1) (by decide)
    have hsigned : (if decide (fval a + fval b < 0) = true then -((fval a + fval b).natAbs : Int)
        else (fval a + fval b).natAbs) = fval a + fval b := by
      simp only [decide_eq_true_eq]
      split <;> omega
    rwa [hsigned, ← addFinite_nonzero h] at hsum

/-! ## Products and quotients -/

theorem fval_mul_fval (a b : F64) :
    fval a * fval b = if fsign a != fsign b then -((fmag a * fmag b : Nat) : Int) else (fmag a * fmag b : Nat) := by
  rw [fval_eq, fval_eq]
  cases fsign a <;> cases fsign b <;> simp

theorem fval_mul_sign (hb : fval b ≠ 0) (c : Nat) :
    fval a * c * (fval b).sign =
      if fsign a != fsign b then -((fmag a * c : Nat) : Int) else (fmag a * c : Nat) := by
  have hmag : fmag b ≠ 0 := mt (fval_eq_zero b).2 hb
  rw [fval_eq a, fval_eq b]
  cases fsign a <;> cases fsign b <;> simp [Int.sign_natCast_of_ne_zero hmag]

/-! ## On finite operands -/

variable (ha : Laws.Finite a) (hb : Laws.Finite b)
include ha hb

theorem fadd_of_finite : fadd a b = addFinite a b := by
  simp [fadd, addNumbers, isNan_of_finite, isInf_of_finite, ha, hb]

theorem fsub_of_finite : fsub a b = addFinite a (negf b) := by
  simp [fsub, addNumbers, isNan_of_finite, isInf_of_finite, ha, hb]

theorem fmul_of_finite : fmul a b = fpack (fsign a != fsign b) (roundMag (fmag a * fmag b) (2 ^ 1074)) := by
  simp only [fmul, isNan_of_finite ha, isNan_of_finite hb, isInf_of_finite ha, isInf_of_finite hb, Bool.or_false,
    Bool.false_and, Bool.and_false, Bool.false_eq_true, if_false]

theorem fdiv_of_finite (h0 : fval b ≠ 0) :
    fdiv a b = fpack (fsign a != fsign b) (roundMag (fmag a * 2 ^ 1074) (fmag b)) := by
  have hmag : fmag b ≠ 0 := mt (fval_eq_zero b).2 h0
  simp only [fdiv, isNan_of_finite ha, isNan_of_finite hb, isInf_of_finite ha, isInf_of_finite hb, hmag, Bool.or_false,
    Bool.and_false, beq_eq_false_iff_ne.2 hmag, Bool.false_eq_true, if_false]

theorem isRounding_fmul : IsRounding (fmul a b) (fval a * fval b) (2 ^ 1074) := by
  rw [fmul_of_finite ha hb, fval_mul_fval]
  exact isRounding_fpack _ _ (by positivity)

theorem isRounding_fdiv (h0 : fval b ≠ 0) :
    IsRounding (fdiv a b) (fval a * 2 ^ 1074 * (fval b).sign) (fval b).natAbs := by
  have hmag : fmag b ≠ 0 := mt (fval_eq_zero b).2 h0
  have hexact := fval_mul_sign (a := a) h0 (2 ^ 1074)
  rw [Nat.cast_pow, Nat.cast_ofNat] at hexact
  rw [fdiv_of_finite ha hb h0, natAbs_fval, hexact]
  exact isRounding_fpack _ _ (Nat.pos_of_ne_zero hmag)

end

/-- The value of a pattern, written from its number. -/
theorem fval_eq_of_toNat (x : F64) :
    fval x = if 2 ^ 63 ≤ x.toNat then -(fmag x : Int) else fmag x := by
  rw [fval_eq, fsign_eq]
  simp only [decide_eq_true_eq]

theorem fmag_eq_of_toNat (x : F64) :
    fmag x = if x.toNat / 2 ^ 52 % 2048 = 0 then x.toNat % 2 ^ 52
      else (2 ^ 52 + x.toNat % 2 ^ 52) * 2 ^ (x.toNat / 2 ^ 52 % 2048 - 1) := by
  rw [fmag, fexp_eq, ffrac_eq]

/-- Settles O59: the value of a pattern, the four operations on finite operands, and the rounding of a rational. -/
theorem roundingIsToNearestEven : Obligations.RoundingIsToNearestEven := by
  unfold Obligations.RoundingIsToNearestEven
  simp only [roundsTo_iff_isRounding]
  refine ⟨fun x => ⟨?_, ?_, ?_⟩, fun a b ha hb => ?_, fun p q hq => roundQuot_spec hq⟩
  · rw [isNan_iff, fexp_eq, ffrac_eq]
  · rw [isInf_iff, fexp_eq, ffrac_eq]
  · rw [fval_eq_of_toNat, fmag_eq_of_toNat]
  · refine ⟨?_, ?_, isRounding_fmul ha hb, isRounding_fdiv ha hb, fun h => ?_, fun h => ?_, ?_, fun h0 => ?_⟩
    · rw [fadd_of_finite ha hb]
      exact isRounding_addFinite a b
    · rw [fsub_of_finite ha hb, Int.sub_eq_add_neg, ← fval_negf]
      exact isRounding_addFinite a (negf b)
    · rw [fadd_of_finite ha hb, addFinite_zero h, fzero_eq]
      rfl
    · rw [Int.sub_eq_add_neg, ← fval_negf] at h
      rw [fsub_of_finite ha hb, addFinite_zero h, fzero_eq, fsign_negf]
      rfl
    · rw [fmul_of_finite ha hb]
      exact fsign_fpack _ (roundMag_lt _ _)
    · rw [fdiv_of_finite ha hb h0]
      exact fsign_fpack _ (roundMag_lt _ _)

end Sys2Proof.Machine
end

section
/-! Small integers are exact, and IEEE 754's results on NaN, infinity and a zero divisor (00_scope.md R10). -/

namespace Sys2Proof.Machine

/-! ## Small integers -/

/-- The magnitude of the integer n, in units of 2^-1074. Irreducible, so that no check tries to evaluate its power. -/
@[irreducible] def inUnits (n : Nat) : Nat := 2 ^ 1074 * n

theorem inUnits_add (n m : Nat) : inUnits (n + m) = inUnits n + inUnits m := by
  rw [inUnits, inUnits, inUnits, Nat.mul_add]

theorem inUnits_lt {n m : Nat} : inUnits n < inUnits m ↔ n < m := by
  have hscale (t : Nat) : 2 ^ t * n < 2 ^ t * m ↔ n < m := Nat.mul_lt_mul_left (Nat.two_pow_pos t)
  rw [inUnits, inUnits, hscale]

theorem f64_eq (n : Nat) : f64 n = fpack false (roundMag (inUnits n) 1) := by
  rw [inUnits, f64, ofRatio, Nat.mul_comm n]

theorem fsign_f64 (n : Nat) : fsign (f64 n) = false := by
  rw [f64_eq, fsign_fpack false (roundMag_lt _ _)]

/-- Integers below 2^53 lie below the overflow bound. -/
theorem inUnits_lt_overflowBound {n : Nat} (hn : n < 2 ^ 53) : inUnits n < overflowBound 1 := by
  have hbound (s t : Nat) (h : t ≤ s) : 2 ^ t * n < (2 ^ 54 - 1) * (2 ^ s * 1) :=
    calc 2 ^ t * n ≤ 2 ^ s * n := Nat.mul_le_mul_right n (Nat.pow_le_pow_right (by decide) h)
      _ = n * 2 ^ s := Nat.mul_comm _ n
      _ < (2 ^ 54 - 1) * 2 ^ s := Nat.mul_lt_mul_of_pos_right (by omega) (Nat.two_pow_pos s)
      _ = (2 ^ 54 - 1) * (2 ^ s * 1) := by rw [Nat.mul_one]
  rw [overflowBound_eq, inUnits]
  exact hbound 2044 1074 (by decide)

theorem finite_f64 {n : Nat} (hn : n < 2 ^ 53) : Laws.Finite (f64 n) := by
  rw [f64_eq]
  exact finite_fpack_roundMag (by decide) (inUnits_lt_overflowBound hn) false

/-- Integers below 2^53 need no rounding. -/
theorem fval_f64 {n : Nat} (hn : n < 2 ^ 53) : fval (f64 n) = inUnits n := by
  have hscaled : inUnits n = n * 2 ^ 1074 := by rw [inUnits, Nat.mul_comm]
  have hmag : fmag (f64 n) = inUnits n := by
    rw [f64_eq]
    exact fmag_fpack_roundMag_exact (by decide) (inUnits_lt_overflowBound hn) false hn hscaled (Nat.mul_one _).symm
  rw [fval_eq, fsign_f64, if_neg (by decide), hmag]

/-- A sum of integers below 2^53 is computed on their exact values. -/
theorem fadd_f64 {n m : Nat} (hn : n < 2 ^ 53) (hm : m < 2 ^ 53) : fadd (f64 n) (f64 m) = f64 (n + m) := by
  have hsum : fval (f64 n) + fval (f64 m) = inUnits (n + m) := by
    rw [fval_f64 hn, fval_f64 hm, inUnits_add, Nat.cast_add]
  rw [fadd_of_finite (finite_f64 hn) (finite_f64 hm)]
  by_cases h0 : fval (f64 n) + fval (f64 m) = 0
  · have hnm : inUnits (n + m) = 0 := by rw [hsum] at h0; exact_mod_cast h0
    rw [addFinite_zero h0, f64_eq (n + m), hnm, fpack_roundMag_zero, fsign_f64, fsign_f64, Bool.and_self]
  · have hpos : ¬ (inUnits (n + m) : Int) < 0 := by omega
    rw [addFinite_nonzero h0, hsum, Int.natAbs_natCast, f64_eq (n + m), decide_eq_false hpos]

/-! ## Comparisons -/

theorem flt_iff (a b : F64) : flt a b = true ↔ isNan a = false ∧ isNan b = false ∧ fval a < fval b := by
  simp [flt, and_assoc]

theorem feq_iff (a b : F64) : feq a b = true ↔ isNan a = false ∧ isNan b = false ∧ fval a = fval b := by
  simp [feq, and_assoc]

theorem flt_f64 {n m : Nat} (hn : n < 2 ^ 53) (hm : m < 2 ^ 53) : flt (f64 n) (f64 m) = true ↔ n < m := by
  rw [flt_iff, fval_f64 hn, fval_f64 hm, Int.ofNat_lt, inUnits_lt]
  simp only [isNan_of_finite (finite_f64 hn), isNan_of_finite (finite_f64 hm), true_and]

/-! ## NaN results -/

/-- Whatever the free pattern, the result is a NaN (log entry 3). -/
theorem isNan_fnan (op : FloatOp) (a b : F64) : isNan (fnan op a b) = true := by
  simp only [fnan]
  generalize Config.nanFree op a b = free
  have hexp (c : F64) (hc : c.extractLsb' 52 11 = 2047#11) : fexp (free ||| c) = 2047 := by
    rw [fexp, BitVec.extractLsb'_or, hc, show (2047#11 : BitVec 11) = BitVec.allOnes 11 from rfl, BitVec.or_allOnes]
    rfl
  have hfrac (c : F64) : ffrac (free ||| c) = ffrac free ||| ffrac c := by
    rw [ffrac, BitVec.extractLsb'_or, BitVec.toNat_or, ffrac, ffrac]
  rw [isNan_iff]
  split
  case isTrue h => exact ⟨hexp _ (by decide), by rw [hfrac, h]; decide⟩
  case isFalse h => exact ⟨hexp _ (by decide), by rw [hfrac]; simpa [ffrac] using h⟩

section
variable {a b : F64}

/-- A NaN operand makes every result a NaN. -/
theorem isNan_results (h : isNan a = true ∨ isNan b = true) :
    isNan (fadd a b) = true ∧ isNan (fsub a b) = true ∧ isNan (fmul a b) = true ∧ isNan (fdiv a b) = true := by
  have hor : (isNan a || isNan b) = true := by simpa using h
  simp only [fadd, fsub, fmul, fdiv, hor, Bool.true_or, if_true, isNan_fnan, and_self]

end

/-! ## Infinities -/

/-- Above the subnormals the leading bit is implied, so the magnitude is not zero. -/
theorem fmag_pos_of_fexp {x : F64} (h : fexp x ≠ 0) : 0 < fmag x := by
  rw [fmag, if_neg h]
  positivity

theorem fmag_ne_zero_of_isInf {x : F64} (h : isInf x = true) : fmag x ≠ 0 := by
  obtain ⟨he, -⟩ := (isInf_iff x).1 h
  exact (fmag_pos_of_fexp (by omega)).ne'

section
variable {a b : F64}

/-- An infinity and a finite value add up to the infinity, with its sign flipped where it is subtracted. -/
theorem sums_of_isInf_of_finite (ha : isInf a = true) (hb : Laws.Finite b) :
    fadd a b = a ∧ fadd b a = a ∧ fsub a b = a ∧ fsub b a = negf a := by
  simp only [fadd, fsub, addNumbers, isInf_negf, ha, isNan_of_isInf ha, isNan_of_finite hb, isInf_of_finite hb,
    Bool.or_false, Bool.false_and, Bool.and_false, Bool.false_eq_true, if_false, if_true, and_self]

/-- Infinities of one sign add up to it, and their difference is a NaN. -/
theorem sums_of_isInf_same_sign (ha : isInf a = true) (hb : isInf b = true) (h : fsign a = fsign b) :
    fadd a b = a ∧ isNan (fsub a b) = true := by
  simp [fadd, fsub, addNumbers, ha, hb, isNan_of_isInf ha, isNan_of_isInf hb, h, isNan_fnan]

/-- Infinities of opposite signs have a NaN for their sum, and the first for their difference. -/
theorem sums_of_isInf_opposite_sign (ha : isInf a = true) (hb : isInf b = true) (h : fsign a ≠ fsign b) :
    isNan (fadd a b) = true ∧ fsub a b = a := by
  simp [fadd, fsub, addNumbers, ha, hb, isNan_of_isInf ha, isNan_of_isInf hb, h, isNan_fnan]

/-- An infinity times a value that is neither NaN nor zero is the infinity of the product's sign. -/
theorem fmul_of_isInf (ha : isInf a = true) (hb : isNan b = false) (h0 : fmag b ≠ 0) :
    fmul a b = finf (fsign a != fsign b) ∧ fmul b a = finf (fsign a != fsign b) := by
  have hcomm : (fsign b != fsign a) = (fsign a != fsign b) := Bool.xor_comm _ _
  simp [fmul, ha, hb, isNan_of_isInf ha, fmag_ne_zero_of_isInf ha, h0, hcomm]

/-- An infinity times a zero is a NaN. -/
theorem isNan_fmul_of_isInf_of_zero (ha : isInf a = true) (h0 : fmag b = 0) :
    isNan (fmul a b) = true ∧ isNan (fmul b a) = true := by
  simp [fmul, ha, h0, isNan_fnan]

theorem isNan_fdiv_of_isInf (ha : isInf a = true) (hb : isInf b = true) : isNan (fdiv a b) = true := by
  simp [fdiv, ha, hb, isNan_fnan]

theorem fdiv_of_isInf_of_finite (ha : isInf a = true) (hb : Laws.Finite b) : fdiv a b = finf (fsign a != fsign b) := by
  simp [fdiv, ha, isNan_of_isInf ha, isNan_of_finite hb, isInf_of_finite hb, fmag_ne_zero_of_isInf ha]

theorem fdiv_of_finite_of_isInf (ha : Laws.Finite a) (hb : isInf b = true) : fdiv a b = fzero (fsign a != fsign b) := by
  simp [fdiv, hb, isNan_of_isInf hb, isNan_of_finite ha, isInf_of_finite ha, fmag_ne_zero_of_isInf hb]

theorem isNan_fdiv_of_zero (ha : fmag a = 0) (hb : fmag b = 0) : isNan (fdiv a b) = true := by
  simp [fdiv, ha, hb, isNan_fnan]

/-- A zero magnitude is a finite one. -/
theorem finite_of_fmag_eq_zero (h : fmag b = 0) : Laws.Finite b := by
  rw [finite_iff]
  intro he
  exact (fmag_pos_of_fexp (by omega)).ne' h

/-- A finite value that is not zero, divided by a zero, is the infinity of the quotient's sign. -/
theorem fdiv_of_zero_divisor (ha : Laws.Finite a) (ha0 : fmag a ≠ 0) (hb : fmag b = 0) :
    fdiv a b = finf (fsign a != fsign b) := by
  have hfin := finite_of_fmag_eq_zero hb
  simp [fdiv, hb, ha0, isNan_of_finite ha, isNan_of_finite hfin, isInf_of_finite ha, isInf_of_finite hfin]

end

/-- Settles O60: the exact integers by `fval_f64`, then each special result from the branch that gives it. -/
theorem smallIntegersAreExact : Obligations.SmallIntegersAreExact := by
  refine ⟨fun n m hn hm => ?_, fun a b => ?_⟩
  · have hfin := finite_f64 hn
    refine ⟨?_, isNan_of_finite hfin, isInf_of_finite hfin, fsign_f64 n, fun _ => fadd_f64 hn hm, flt_f64 hn hm⟩
    rw [fval_f64 hn, inUnits, Nat.mul_comm, Nat.cast_mul, Nat.cast_pow, Nat.cast_ofNat]
  · intro sign infinity
    have hsign : sign = (fsign a != fsign b) := rfl
    have hinf : infinity = finf sign := (finf_eq sign).symm
    simp only [hinf, ← fzero_eq, fval_eq_zero, ne_eq]
    refine ⟨flt_iff a b, rfl, feq_iff a b, isNan_results, sums_of_isInf_of_finite, fun ha hb h => ?_,
      fun ha hb h => ?_, fmul_of_isInf, isNan_fmul_of_isInf_of_zero, isNan_fdiv_of_isInf, fdiv_of_isInf_of_finite,
      fdiv_of_finite_of_isInf, fun ha hb => ⟨(isNan_fdiv_of_zero · hb), (fdiv_of_zero_divisor ha · hb)⟩⟩
    · exact sums_of_isInf_same_sign ha hb (by simpa [hsign] using h)
    · exact sums_of_isInf_opposite_sign ha hb (by simpa [hsign] using h)

end Sys2Proof.Machine
end

section
/-! The register map: what a host's register access does at a good and at a bad offset, what a register reads as after a
write of the same and of another one, and the reset values (10_state.md R22 to R36, R46). -/

namespace Sys2Proof.Machine

/-! ## Register accesses -/

/-- A register access is bad exactly by its width, its alignment or its range (10_state.md R36). -/
theorem badRegAccess_iff (offset width : Nat) :
    badRegAccess offset width = true ↔ width ≠ 64 ∨ offset % 8 ≠ 0 ∨ 0xFF < offset := by
  simp only [badRegAccess, Bool.or_eq_true, decide_eq_true_eq, or_assoc]

/-- A 64-bit access at a multiple of 8 up to 0xFF is good. -/
theorem badRegAccess_eq_false {offset : Nat} (h8 : offset % 8 = 0) (hle : offset ≤ 0xFF) :
    badRegAccess offset 64 = false := by
  rw [← Bool.not_eq_true, badRegAccess_iff]
  omega

/-- A good register write of an IDLE block's host writes the register at its offset. -/
theorem hostOp_regWrite_of_idle {s : State} (hs : s.engine = .idle) (v : Word) {offset : Nat} (h8 : offset % 8 = 0)
    (hle : offset ≤ 0xFF) : hostOp (.regWrite offset 64 v) s = .next (s.writeReg v (regAt offset)) := by
  simp [hostOp, hostRegWrite, State.isBusy_idle hs, badRegAccess_eq_false h8 hle]

/-- A bad register write of an IDLE block's host faults. -/
theorem hostOp_regWrite_of_bad {s : State} (hs : s.engine = .idle) (v : Word) {offset width : Nat}
    (hbad : badRegAccess offset width = true) : hostOp (.regWrite offset width v) s = .fault .badRegisterAccess := by
  simp [hostOp, hostRegWrite, State.isBusy_idle hs, hbad]

/-- A good register read returns the register at its offset, in every state. -/
theorem hostOp_regRead_of_aligned (s : State) {offset : Nat} (h8 : offset % 8 = 0) (hle : offset ≤ 0xFF) :
    hostOp (.regRead offset 64) s = .next (s.giveHost (s.readReg (regAt offset))) := by
  simp [hostOp, hostRegRead, badRegAccess_eq_false h8 hle]

/-- A bad register read faults, in every state. -/
theorem hostOp_regRead_of_bad (s : State) {offset width : Nat} (hbad : badRegAccess offset width = true) :
    hostOp (.regRead offset width) s = .fault .badRegisterAccess := by
  simp [hostOp, hostRegRead, hbad]

/-- Above the last register of the map every offset is reserved (10_state.md R36). -/
theorem regAt_eq_reserved {offset : Nat} (h : 0x78 ≤ offset) : regAt offset = .reserved := by
  unfold regAt
  split
  case h_16 => rfl
  all_goals omega

/-- Settles O14: the two kinds of offset by `regAt_eq_reserved` and `badRegAccess_iff`. -/
theorem reservedOffsetsAndBadRegisterAccesses : Obligations.ReservedOffsetsAndBadRegisterAccesses := by
  refine fun s offset width v => ⟨fun hlo hhi h8 => ?_, fun h => ?_⟩
  · have hres : regAt offset = .reserved := regAt_eq_reserved hlo
    have hle : offset ≤ 0xFF := by omega
    have hread := hostOp_regRead_of_aligned s h8 hle
    rw [hres] at hread
    refine ⟨hread, fun hs => ?_⟩
    have hwrite := hostOp_regWrite_of_idle hs v h8 hle
    rw [hres] at hwrite
    exact hwrite
  · have hbad : badRegAccess offset width = true := (badRegAccess_iff offset width).2 (by omega)
    exact ⟨hostOp_regRead_of_bad s hbad, fun hs => hostOp_regWrite_of_bad hs v hbad⟩

/-! ## Reading after writing -/

/-- The bits a read/write register stores, `none` for CTRL, the read-only registers and the reserved offsets
(10_state.md R23 to R36). -/
def Reg.storedMask : Reg → Option Word
  | .cmd => some 0xFFFF#64
  | .inLen | .cfgSpb | .cfgCrcPoly | .cfgFc | .cfgF0 | .cfgF1 => some 0xFFFFFFFF#64
  | .cfgCrcWidth => some 0x3F#64
  | .cfgHamK => some 0xFF#64
  | .cfgA0 | .cfgA1 => some 0xFFFFFFFFFFFFFFFF#64
  | .ctrl | .status | .outLen | .caps | .reserved => none

/-- The read/write rows of the register map: an offset and the bits stored there (10_state.md R22). -/
def readWriteRows : List (Nat × Word) :=
  [(0x00, 0xFFFF#64), (0x18, 0xFFFFFFFF#64), (0x30, 0xFFFFFFFF#64), (0x38, 0x3F#64), (0x40, 0xFFFFFFFF#64),
    (0x48, 0xFF#64), (0x50, 0xFFFFFFFF#64), (0x58, 0xFFFFFFFF#64), (0x60, 0xFFFFFFFF#64),
    (0x68, 0xFFFFFFFFFFFFFFFF#64), (0x70, 0xFFFFFFFFFFFFFFFF#64)]

/-- Each of these rows is a good offset with a read/write register of that mask. -/
theorem regAt_readWriteRows :
    ∀ row ∈ readWriteRows, row.1 % 8 = 0 ∧ row.1 ≤ 0xFF ∧ (regAt row.1).storedMask = some row.2 := by decide

/-- Dropping the bits from n on and reading them as 0 is masking with n ones. -/
theorem setWidth_setWidth_eq_and (v : Word) (n : Nat) :
    (v.setWidth n).setWidth 64 = v &&& (BitVec.allOnes n).setWidth 64 := by
  ext i hi
  simp [hi, Bool.and_comm]

/-- A read/write register reads back the bits it stores, the others 0. -/
theorem readReg_writeReg_same {r : Reg} {mask : Word} (h : r.storedMask = some mask) (s : State) (v : Word) :
    (s.writeReg v r).readReg r = v &&& mask := by
  cases r <;> cases h
  case cmd => exact setWidth_setWidth_eq_and v 16
  case cfgCrcWidth => exact setWidth_setWidth_eq_and v 6
  case cfgHamK => exact setWidth_setWidth_eq_and v 8
  case cfgA0 | cfgA1 => exact BitVec.and_allOnes.symm
  all_goals exact setWidth_setWidth_eq_and v 32

/-- A write of any register but CTRL leaves what every other register reads as. -/
theorem readReg_writeReg_of_ne {r q : Reg} (hctrl : r ≠ .ctrl) (hne : q ≠ r) (s : State) (v : Word) :
    (s.writeReg v r).readReg q = s.readReg q := by
  cases r
  case ctrl => exact absurd rfl hctrl
  all_goals cases q <;> simp [State.readReg, State.writeReg, State.statusWord, State.isBusy] at hne ⊢

/-- A write of any register but CTRL changes CMD, IN_LEN and the configuration at most. -/
theorem writeReg_eq_of_ne_ctrl {r : Reg} (hctrl : r ≠ .ctrl) (s : State) (v : Word) :
    ∃ cmd inLen cfg, s.writeReg v r = { s with cmd := cmd, inLen := inLen, cfg := cfg } := by
  cases r with
  | ctrl => exact absurd rfl hctrl
  | _ => exact ⟨_, _, _, rfl⟩

/-- Settles O13: `writeReg` at each offset, then the read after the write and the frame, for each row of the map. -/
theorem registerWritesReadBackMasked : Obligations.RegisterWritesReadBackMasked := by
  refine ⟨fun s v hs => ?_, fun s v offset mask hs hrow => ?_⟩
  · and_intros <;> exact hostOp_regWrite_of_idle hs v (by decide) (by decide)
  · obtain ⟨h8, hle, hmask⟩ := regAt_readWriteRows (offset, mask) hrow
    have hctrl : regAt offset ≠ .ctrl := fun hc => by rw [hc] at hmask; cases hmask
    refine ⟨_, hostOp_regWrite_of_idle hs v h8 hle, readReg_writeReg_same hmask s v,
      fun r hr => readReg_writeReg_of_ne hctrl hr s v, ?_⟩
    obtain ⟨cmd, inLen, cfg, hw⟩ := writeReg_eq_of_ne_ctrl hctrl s v
    rw [hw]
    exact ⟨rfl, fun _ => rfl, fun _ => rfl, rfl, rfl⟩

/-! ## Reset -/

/-- Every legal capacity lies between 1 and 2^32 - 1 (00_scope.md R5). -/
theorem legalCap_bounds (n : Nat) : 1 ≤ Config.legalCap n ∧ Config.legalCap n < 2 ^ 32 := by
  unfold Config.legalCap
  omega

/-- CAPS holds OUT_CAP above IN_CAP (10_state.md R28). -/
theorem toNat_readReg_caps {s : State} (hin : s.inCap < 2 ^ 32) (hout : s.outCap < 2 ^ 32) :
    (s.readReg .caps).toNat = s.outCap * 2 ^ 32 + s.inCap := by
  rw [State.readReg, BitVec.toNat_append, BitVec.toNat_ofNat, BitVec.toNat_ofNat, Nat.mod_eq_of_lt hin,
    Nat.mod_eq_of_lt hout, ← Nat.shiftLeft_add_eq_or_of_lt hin, Nat.shiftLeft_eq]

@[simp] theorem State.reset_inCap : State.reset.inCap = Config.inCap := rfl

@[simp] theorem State.reset_outCap : State.reset.outCap = Config.outCap := rfl

/-- Settles O10: the capacities by `legalCap_bounds`, every other row by evaluation. -/
theorem resetIsTheTableOfResetValues : Obligations.ResetIsTheTableOfResetValues := by
  obtain ⟨hin1, hin⟩ := legalCap_bounds Config.inCapFree
  obtain ⟨hout1, hout⟩ := legalCap_bounds Config.outCapFree
  have hcaps := toNat_readReg_caps (s := State.reset) hin hout
  rw [State.reset_inCap, State.reset_outCap] at hcaps
  exact ⟨rfl, rfl, rfl, rfl, rfl, rfl, rfl, rfl, rfl, rfl, rfl, rfl, rfl, rfl, rfl, hcaps, hin1, hin, hout1, hout,
    memRead_nil, memRead_nil, rfl, rfl, rfl, rfl⟩

/-- Settles O11: the buffers are empty, the engine IDLE and STATUS 0, which each clause asks for. -/
theorem resetHasTheInvariant : Obligations.ResetHasTheInvariant where
  inCapLegal := legalCap_bounds Config.inCapFree
  outCapLegal := legalCap_bounds Config.outCapFree
  inCanonical := reset_memory_wf.1
  outCanonical := reset_memory_wf.2
  inWithin c hc := nomatch hc
  outMarks i := by simp [State.reset]
  outFits := Nat.zero_le _
  status := ⟨List.mem_cons_self, fun _ => rfl, nofun⟩
  errorLeavesNothing _ := rfl
  latchedCurrent := latchedCurrent_of_idle rfl

end Sys2Proof.Machine
end

section
/-! Host accesses to the buffers: what a host's read and write of IN and of OUT give in an IDLE and in a BUSY block
(20_memory.md R52 to R55; 70_reset_and_hazards.md R291). -/

namespace Sys2Proof.Machine

/-! ## The shared read -/

/-- While BUSY a host's read of a buffer faults, whatever the index (log entry 9). -/
theorem hostBufRead_of_busy {s : State} (hb : s.isBusy = true) (cap : Nat) (m : Memory) (i : Nat) :
    hostBufRead cap m i s = .error .hostAccessWhileBusy := by
  simp [hostBufRead, hb]

section
variable {s : State} (hs : s.engine = .idle) {cap : Nat} {m : Memory} {i : Nat}
include hs

/-- A read past the buffer faults. -/
theorem hostBufRead_of_cap_le (hcap : cap ≤ i) : hostBufRead cap m i s = .error .badBufferAccess := by
  simp [hostBufRead, State.isBusy_idle hs, hcap]

/-- A read of an unwritten element faults. -/
theorem hostBufRead_of_unwritten (hi : i < cap) (hm : memRead m i = none) :
    hostBufRead cap m i s = .error .unwrittenRead := by
  simp [hostBufRead, State.isBusy_idle hs, Nat.not_le.2 hi, hm]

/-- A read of a written element gives it. -/
theorem hostBufRead_of_written (hi : i < cap) {v : Word} (hm : memRead m i = some v) :
    hostBufRead cap m i s = .ok v := by
  simp [hostBufRead, State.isBusy_idle hs, Nat.not_le.2 hi, hm]

end

/-! ## The host's reads of IN and OUT -/

section
variable {s : State} {i : Nat}

theorem hostOp_inRead_of_ok {v : Word} (h : hostBufRead s.inCap s.inBuf i s = .ok v) :
    hostOp (.inRead i) s = .next { s with reads := v :: s.reads } := by
  simp [hostOp, hostInRead, h, State.giveHost]

theorem hostOp_inRead_of_error {f : Fault} (h : hostBufRead s.inCap s.inBuf i s = .error f) :
    hostOp (.inRead i) s = .fault f := by
  simp [hostOp, hostInRead, h]

theorem hostOp_outRead_of_ok {v : Word} (h : hostBufRead s.outCap s.outBuf i s = .ok v) :
    hostOp (.outRead i) s = .next { s with reads := v :: s.reads } := by
  simp [hostOp, hostOutRead, h, State.giveHost]

theorem hostOp_outRead_of_error {f : Fault} (h : hostBufRead s.outCap s.outBuf i s = .error f) :
    hostOp (.outRead i) s = .fault f := by
  simp [hostOp, hostOutRead, h]

end

/-! ## The host's writes of IN and OUT -/

/-- A write of IN inside the buffer stores the element (20_memory.md R52). -/
theorem hostOp_inWrite_of_lt {s : State} (hs : s.engine = .idle) {i : Nat} (hi : i < s.inCap) (v : Word) :
    hostOp (.inWrite i v) s = .next { s with inBuf := memWrite s.inBuf i v } := by
  simp [hostOp, hostInWrite, State.isBusy_idle hs, Nat.not_le.2 hi]

/-- A write past IN faults. -/
theorem hostOp_inWrite_of_cap_le {s : State} (hs : s.engine = .idle) {i : Nat} (hcap : s.inCap ≤ i) (v : Word) :
    hostOp (.inWrite i v) s = .fault .badBufferAccess := by
  simp [hostOp, hostInWrite, State.isBusy_idle hs, hcap]

/-- OUT is not the host's to write (20_memory.md R54). -/
theorem hostOp_outWrite_of_idle {s : State} (hs : s.engine = .idle) (i : Nat) (v : Word) :
    hostOp (.outWrite i v) s = .fault .badBufferAccess := by
  simp [hostOp, hostOutWrite, State.isBusy_idle hs]

/-- While BUSY a host's write of either buffer faults, whatever the index (70_reset_and_hazards.md R291; log entry
9). -/
theorem hostOp_bufWrite_of_busy {s : State} (hb : s.isBusy = true) (i : Nat) (v : Word) :
    hostOp (.inWrite i v) s = .fault .hostAccessWhileBusy
      ∧ hostOp (.outWrite i v) s = .fault .hostAccessWhileBusy := by
  simp [hostOp, hostInWrite, hostOutWrite, hb]

/-- While BUSY a host's read of either buffer faults, whatever the index (70_reset_and_hazards.md R291; log entry
9). -/
theorem hostOp_bufRead_of_busy {s : State} (hb : s.isBusy = true) (i : Nat) :
    hostOp (.inRead i) s = .fault .hostAccessWhileBusy ∧ hostOp (.outRead i) s = .fault .hostAccessWhileBusy :=
  ⟨hostOp_inRead_of_error (hostBufRead_of_busy hb _ _ i), hostOp_outRead_of_error (hostBufRead_of_busy hb _ _ i)⟩

/-! ## The two buffers -/

/-- Settles O18: an index inside IN, one past it, and a BUSY block; the stored element by the laws of `memWrite`. -/
theorem hostAccessToTheInputBuffer : Obligations.HostAccessToTheInputBuffer := by
  refine fun s i v => ⟨fun hs hi => ⟨?stored, fun u hu => ?written, fun hm => ?unwritten⟩, fun hs hcap => ?past,
    fun l wait hb => ?busy⟩
  case stored =>
    exact ⟨memWrite s.inBuf i v, hostOp_inWrite_of_lt hs hi v, memRead_memWrite_same s.inBuf i v,
      fun j hj => memRead_memWrite_other s.inBuf v hj, fun hwf => memWrite_wf hwf i v⟩
  case written => exact hostOp_inRead_of_ok (hostBufRead_of_written hs hi hu)
  case unwritten => exact hostOp_inRead_of_error (hostBufRead_of_unwritten hs hi hm)
  case past => exact ⟨hostOp_inWrite_of_cap_le hs hcap v, hostOp_inRead_of_error (hostBufRead_of_cap_le hs hcap)⟩
  case busy =>
    have hbusy := State.isBusy_busy hb
    exact ⟨(hostOp_bufWrite_of_busy hbusy i v).1, (hostOp_bufRead_of_busy hbusy i).1⟩

/-- OUT is written exactly below OUT_LEN (20_memory.md R55). -/
theorem State.Inv.memRead_outBuf_of_lt {s : State} (h : s.Inv) {i : Nat} (hi : i < s.outLen.toNat) :
    ∃ u, memRead s.outBuf i = some u :=
  Option.isSome_iff_exists.1 ((h.outMarks i).2 hi)

/-- From OUT_LEN on OUT is unwritten (20_memory.md R55). -/
theorem State.Inv.memRead_outBuf_of_le {s : State} (h : s.Inv) {i : Nat} (hi : s.outLen.toNat ≤ i) :
    memRead s.outBuf i = none := by
  rw [← Option.not_isSome_iff_eq_none, h.outMarks i]
  exact Nat.not_lt.2 hi

/-- Settles O19: the invariant says which elements of OUT are written and that they lie below OUT_CAP. -/
theorem hostAccessToTheOutputBuffer : Obligations.HostAccessToTheOutputBuffer := by
  refine fun s i v h => ⟨fun hs => ⟨fun hi => ?written, fun hlen hi => ?unwritten, fun hcap => ?past,
    hostOp_outWrite_of_idle hs i v⟩, fun l wait hb => ?busy⟩
  case written =>
    obtain ⟨u, hu⟩ := h.memRead_outBuf_of_lt hi
    have hcap : i < s.outCap := hi.trans_le h.outFits
    exact ⟨u, hu, hostOp_outRead_of_ok (hostBufRead_of_written hs hcap hu)⟩
  case unwritten => exact hostOp_outRead_of_error (hostBufRead_of_unwritten hs hi (h.memRead_outBuf_of_le hlen))
  case past => exact hostOp_outRead_of_error (hostBufRead_of_cap_le hs hcap)
  case busy =>
    have hbusy := State.isBusy_busy hb
    exact ⟨(hostOp_bufRead_of_busy hbusy i).2, (hostOp_bufWrite_of_busy hbusy i v).2⟩

end Sys2Proof.Machine
end

section
/-! The whole register map: which register stands at each offset, what STATUS and CAPS read as bit by bit, and the
register writes that have no effect (10_state.md R22 to R28; 20_memory.md R63). -/

namespace Sys2Proof.Machine

/-- The register map: the offset of each register (10_state.md R22). -/
def registerMap : List (Nat × Reg) :=
  [(0x00, .cmd), (0x08, .ctrl), (0x10, .status), (0x18, .inLen), (0x20, .outLen), (0x28, .caps), (0x30, .cfgSpb),
    (0x38, .cfgCrcWidth), (0x40, .cfgCrcPoly), (0x48, .cfgHamK), (0x50, .cfgFc), (0x58, .cfgF0), (0x60, .cfgF1),
    (0x68, .cfgA0), (0x70, .cfgA1)]

/-- Each row is a good offset at which the model finds the row's register. -/
theorem regAt_registerMap : ∀ row ∈ registerMap, row.1 % 8 = 0 ∧ row.1 ≤ 0xFF ∧ regAt row.1 = row.2 := by decide

/-- A concatenation as a number: the upper part scaled past the lower one. -/
theorem toNat_append_eq_add {n m : Nat} (x : BitVec n) (y : BitVec m) :
    (x ++ y).toNat = x.toNat * 2 ^ m + y.toNat := by
  rw [BitVec.toNat_append, ← Nat.shiftLeft_add_eq_or_of_lt y.isLt, Nat.shiftLeft_eq]

/-- BUSY reads 1 exactly in a block that is not IDLE (10_state.md R25). -/
theorem State.isBusy_eq_decide (s : State) : s.isBusy = decide (s.engine ≠ .idle) := by
  cases he : s.engine with
  | idle => rw [State.isBusy_idle he]; rfl
  | busy l wait => simp [State.isBusy_busy he]

/-- STATUS as a number: BUSY, DONE, ERR and ERRCODE at bits 0, 1, 2 and 4 (10_state.md R25). -/
theorem readReg_status_eq_ofNat (s : State) :
    s.readReg .status = BitVec.ofNat 64 ((decide (s.engine ≠ .idle)).toNat + 2 * s.done.toNat + 4 * s.err.toNat
      + 16 * s.errCode.toNat) := by
  refine BitVec.eq_of_toNat_eq ?_
  rw [← s.isBusy_eq_decide, State.readReg, State.statusWord, BitVec.toNat_ofNat]
  simp only [toNat_append_eq_add, BitVec.toNat_ofBool, BitVec.toNat_ofNat]
  have hcode := s.errCode.isLt
  have hbusy := s.isBusy.toNat_lt
  have hdone := s.done.toNat_lt
  have herr := s.err.toNat_lt
  omega

/-- CAPS as a number: OUT_CAP above IN_CAP, 32 bits of each (10_state.md R28). -/
theorem readReg_caps_eq_ofNat (s : State) :
    s.readReg .caps = BitVec.ofNat 64 (s.outCap % 2 ^ 32 * 2 ^ 32 + s.inCap % 2 ^ 32) := by
  refine BitVec.eq_of_toNat_eq ?_
  rw [State.readReg, toNat_append_eq_add, BitVec.toNat_ofNat, BitVec.toNat_ofNat, BitVec.toNat_ofNat]
  omega

/-- A write of CTRL with neither strobe set has no effect (10_state.md R24). -/
theorem writeReg_ctrl_of_no_strobe (s : State) {v : Word} (h0 : v.getLsbD 0 = false) (h1 : v.getLsbD 1 = false) :
    s.writeReg v .ctrl = s := by
  rw [State.writeReg, State.writeCtrl, h0, h1]
  rfl

/-- Settles O15: a read by the row of `registerMap` its offset stands in, a write by what `writeReg` does there. -/
theorem readOnlyWritesAndReadsHaveNoEffect : Obligations.ReadOnlyWritesAndReadsHaveNoEffect := by
  refine ⟨fun s offset r value hrow => ?read, fun s v hs => ⟨fun offset ho => ?readOnly, fun h0 h1 => ?ctrl,
    fun offset h8 hle => hostOp_regRead_of_aligned s h8 hle⟩⟩
  case read =>
    rw [← readReg_status_eq_ofNat, ← readReg_caps_eq_ofNat] at hrow
    have hmap : (offset, r, value) ∈ registerMap.map fun row => (row.1, row.2, s.readReg row.2) := hrow
    obtain ⟨⟨o, q⟩, hmem, heq⟩ := List.mem_map.1 hmap
    cases heq
    obtain ⟨h8, hle, hreg⟩ := regAt_registerMap _ hmem
    have hread := hostOp_regRead_of_aligned s h8 hle
    rw [hreg] at hread
    exact ⟨hreg, rfl, hread⟩
  case readOnly =>
    simp only [List.mem_cons, List.not_mem_nil, or_false] at ho
    rcases ho with rfl | rfl | rfl <;> exact hostOp_regWrite_of_idle hs v (by decide) (by decide)
  case ctrl =>
    have hctrl : regAt 0x08 = .ctrl := rfl
    rw [hostOp_regWrite_of_idle hs v (by decide) (by decide), hctrl, writeReg_ctrl_of_no_strobe s h0 h1]

end Sys2Proof.Machine
end

section
/-! Command words: the decoder and the encoder are each other's inverse, row by row of the opcode map (30_encoding.md
R70 to R82). -/

namespace Sys2Proof

/-! ## Fields -/

section
variable (family variant : BitVec 4) (d : Dir)

/-- The place of each field as a power of two (30_encoding.md R71). -/
theorem toNat_cmdWordOf :
    (cmdWordOf family variant d).toNat = family.toNat * 2 ^ 12 + variant.toNat * 2 ^ 8 + d.bit.toNat := by
  simp only [cmdWordOf, Machine.toNat_append_eq_add, BitVec.toNat_ofNat]
  omega

@[simp] theorem cmdFamily_cmdWordOf : cmdFamily (cmdWordOf family variant d) = family := by
  apply BitVec.eq_of_toNat_eq
  have hv := variant.isLt
  have hd := d.bit.isLt
  rw [cmdFamily, BitVec.extractLsb'_toNat, toNat_cmdWordOf, Nat.shiftRight_eq_div_pow]
  omega

@[simp] theorem cmdVariant_cmdWordOf : cmdVariant (cmdWordOf family variant d) = variant := by
  apply BitVec.eq_of_toNat_eq
  have hd := d.bit.isLt
  rw [cmdVariant, BitVec.extractLsb'_toNat, toNat_cmdWordOf, Nat.shiftRight_eq_div_pow]
  omega

/-- A word made of the three other fields has RSVD = 0 (30_encoding.md R72). -/
@[simp] theorem cmdRsvd_cmdWordOf : cmdRsvd (cmdWordOf family variant d) = 0#7 := by
  apply BitVec.eq_of_toNat_eq
  have hd := d.bit.isLt
  rw [cmdRsvd, BitVec.extractLsb'_toNat, toNat_cmdWordOf, Nat.shiftRight_eq_div_pow, BitVec.toNat_ofNat]
  omega

@[simp] theorem cmdDir_cmdWordOf : cmdDir (cmdWordOf family variant d) = d := by
  have h0 : (cmdWordOf family variant d).getLsbD 0 = d.bit.getLsbD 0 := BitVec.getLsbD_append
  rw [cmdDir, h0]
  cases d <;> rfl

end

/-- The bit of the direction is the word's lowest bit. -/
theorem bit_cmdDir (w : CmdWord) : (cmdDir w).bit = w.extractLsb' 0 1 := by
  ext i hi
  obtain rfl : i = 0 := by omega
  cases h : w[0] <;> simp [cmdDir, Dir.bit, BitVec.getLsbD_eq_getElem, h]

/-- A word with RSVD = 0 is made of its three other fields (30_encoding.md R72). -/
theorem cmdWordOf_fields {w : CmdWord} (h : cmdRsvd w = 0#7) :
    cmdWordOf (cmdFamily w) (cmdVariant w) (cmdDir w) = w := by
  rw [cmdWordOf, ← h, bit_cmdDir, cmdFamily, cmdVariant, cmdRsvd,
    BitVec.extractLsb'_append_extractLsb'_eq_extractLsb' (by omega),
    BitVec.extractLsb'_append_extractLsb'_eq_extractLsb' (by omega),
    BitVec.extractLsb'_append_extractLsb'_eq_extractLsb' (by omega)]
  exact BitVec.extractLsb'_eq_self

/-! ## The decoder, one equation for each kind of word (30_encoding.md R81) -/

/-- The grounds on which a word is illegal (30_encoding.md R82), by the fields' names. -/
theorem isIllegalWord_iff (w : CmdWord) :
    isIllegalWord w = true ↔
      cmdRsvd w ≠ 0#7 ∨ 5 ≤ (cmdFamily w).toNat ∨ (cmdFamily w = 0#4 ∧ cmdVariant w ≠ 0#4) := by
  simp [isIllegalWord, cmdRsvd, cmdFamily, cmdVariant, or_assoc]

/-- An illegal word decodes to the command that carries it. -/
theorem decode_of_isIllegalWord {w : CmdWord} (h : isIllegalWord w = true) : decode w = .illegal w := by
  unfold decode
  split
  case isTrue => rfl
  case isFalse hr =>
    rcases (isIllegalWord_iff w).1 h with hr' | hf | ⟨hf, hv⟩
    · exact absurd hr' hr
    · split
      case h_6 => rfl
      all_goals omega
    · simp [hf, hv]

section
variable (variant : BitVec 4) (d : Dir)

theorem decode_util : decode (cmdWordOf 0#4 0#4 d) = byDir d .b2bits .bits2b := by simp [decode]

theorem decode_framing : decode (cmdWordOf 1#4 variant d) = decodeFraming variant d := by simp [decode]

theorem decode_errctl : decode (cmdWordOf 2#4 variant d) = decodeErrctl variant d := by simp [decode]

theorem decode_linecode : decode (cmdWordOf 3#4 variant d) = decodeLinecode variant d := by simp [decode]

theorem decode_passband : decode (cmdWordOf 4#4 variant d) = decodePassband variant d := by simp [decode]

end

/-- Every word is illegal or made of a family of the opcode map, a VARIANT and a DIR (30_encoding.md R80, R82). -/
theorem isIllegalWord_or_eq_cmdWordOf (w : CmdWord) :
    isIllegalWord w = true ∨ ∃ family variant d, w = cmdWordOf family variant d
      ∧ (family = 0#4 ∧ variant = 0#4 ∨ family ∈ [1#4, 2#4, 3#4, 4#4]) := by
  by_cases h : isIllegalWord w = true
  · exact .inl h
  · refine .inr ⟨cmdFamily w, cmdVariant w, cmdDir w, ?_⟩
    rw [isIllegalWord_iff, not_or, not_or, not_not, not_and, not_not] at h
    obtain ⟨hr, hf, hv⟩ := h
    refine ⟨(cmdWordOf_fields hr).symm, ?_⟩
    simp only [List.mem_cons, List.not_mem_nil, or_false]
    bv_omega

/-! ## Each row of the opcode map -/

/-- The term is the well-formed command of the word. -/
def Instr.IsOf (i : Instr) (w : CmdWord) : Prop := i.wellFormed = true ∧ encode i = w

/-- A row with a command for each direction (30_encoding.md R73). -/
theorem byDir_isOf {family variant : BitVec 4} {a b : Instr} (ha : a.IsOf (cmdWordOf family variant .transmit))
    (hb : b.IsOf (cmdWordOf family variant .receive)) (d : Dir) :
    (byDir d a b).IsOf (cmdWordOf family variant d) := by
  cases d with
  | transmit => exact ha
  | receive => exact hb

/-- A VARIANT below a bound is one of the numbers below it. -/
theorem exists_lt_eq_ofNat {variant : BitVec 4} {n : Nat} (h : ¬ n ≤ variant.toNat) :
    ∃ k < n, variant = BitVec.ofNat 4 k :=
  ⟨variant.toNat, Nat.lt_of_not_le h, by simp⟩

section
variable {variant : BitVec 4} (d : Dir)

theorem decodeFraming_of_le (h : 4 ≤ variant.toNat) : decodeFraming variant d = .frmPass variant d := by
  unfold decodeFraming
  split
  case h_5 => rfl
  all_goals omega

theorem decodeErrctl_of_le (h : 6 ≤ variant.toNat) : decodeErrctl variant d = .ecPass variant d := by
  unfold decodeErrctl
  split
  case h_7 => rfl
  all_goals omega

theorem decodeLinecode_of_le (h : 3 ≤ variant.toNat) : decodeLinecode variant d = .lcUnknown variant d := by
  unfold decodeLinecode
  split
  case h_4 => rfl
  all_goals omega

theorem decodePassband_of_le (h : 4 ≤ variant.toNat) : decodePassband variant d = .pbUnknown variant d := by
  unfold decodePassband
  split
  case h_5 => rfl
  all_goals omega

end

section
variable (variant : BitVec 4) (d : Dir)

theorem decodeFraming_isOf : (decodeFraming variant d).IsOf (cmdWordOf 1#4 variant d) := by
  by_cases h : 4 ≤ variant.toNat
  · rw [decodeFraming_of_le d h]
    exact ⟨decide_eq_true h, rfl⟩
  · obtain ⟨k, hk, rfl⟩ := exists_lt_eq_ofNat h
    interval_cases k <;> exact byDir_isOf ⟨rfl, rfl⟩ ⟨rfl, rfl⟩ d

theorem decodeErrctl_isOf : (decodeErrctl variant d).IsOf (cmdWordOf 2#4 variant d) := by
  by_cases h : 6 ≤ variant.toNat
  · rw [decodeErrctl_of_le d h]
    exact ⟨decide_eq_true h, rfl⟩
  · obtain ⟨k, hk, rfl⟩ := exists_lt_eq_ofNat h
    interval_cases k <;> exact byDir_isOf ⟨rfl, rfl⟩ ⟨rfl, rfl⟩ d

theorem decodeLinecode_isOf : (decodeLinecode variant d).IsOf (cmdWordOf 3#4 variant d) := by
  by_cases h : 3 ≤ variant.toNat
  · rw [decodeLinecode_of_le d h]
    exact ⟨decide_eq_true h, rfl⟩
  · obtain ⟨k, hk, rfl⟩ := exists_lt_eq_ofNat h
    interval_cases k <;> exact byDir_isOf ⟨rfl, rfl⟩ ⟨rfl, rfl⟩ d

theorem decodePassband_isOf : (decodePassband variant d).IsOf (cmdWordOf 4#4 variant d) := by
  by_cases h : 4 ≤ variant.toNat
  · rw [decodePassband_of_le d h]
    exact ⟨decide_eq_true h, rfl⟩
  · obtain ⟨k, hk, rfl⟩ := exists_lt_eq_ofNat h
    interval_cases k <;> exact byDir_isOf ⟨rfl, rfl⟩ ⟨rfl, rfl⟩ d

end

/-! ## The two directions -/

/-- Settles O1: a command of a row by evaluation, a command with a free VARIANT by the fields of its word, and ILLEGAL
by the grounds it carries. -/
theorem decodeOfEncodeIsTheCommand : Obligations.DecodeOfEncodeIsTheCommand := by
  intro i hwf
  cases i with
  | frmPass variant d => exact (decode_framing variant d).trans (decodeFraming_of_le d (of_decide_eq_true hwf))
  | ecPass variant d => exact (decode_errctl variant d).trans (decodeErrctl_of_le d (of_decide_eq_true hwf))
  | lcUnknown variant d => exact (decode_linecode variant d).trans (decodeLinecode_of_le d (of_decide_eq_true hwf))
  | pbUnknown variant d => exact (decode_passband variant d).trans (decodePassband_of_le d (of_decide_eq_true hwf))
  | illegal w => exact decode_of_isIllegalWord hwf
  | _ => rfl

/-- Settles O2: an illegal word is its own term's word, and every other word is the word of its row. -/
theorem encodeOfDecodeIsTheWord : Obligations.EncodeOfDecodeIsTheWord := by
  intro w
  rcases isIllegalWord_or_eq_cmdWordOf w with h | ⟨family, variant, d, rfl, ⟨rfl, rfl⟩ | hf⟩
  · rw [decode_of_isIllegalWord h]
    exact ⟨h, rfl⟩
  · rw [decode_util]
    exact byDir_isOf ⟨rfl, rfl⟩ ⟨rfl, rfl⟩ d
  · simp only [List.mem_cons, List.not_mem_nil, or_false] at hf
    rcases hf with rfl | rfl | rfl | rfl
    · rw [decode_framing]
      exact decodeFraming_isOf variant d
    · rw [decode_errctl]
      exact decodeErrctl_isOf variant d
    · rw [decode_linecode]
      exact decodeLinecode_isOf variant d
    · rw [decode_passband]
      exact decodePassband_isOf variant d

/-- Settles O3: each of the nine words is the word of its row's command, so O1 decodes it. -/
theorem wordsOfEachFamilyDecodeToTheirRow : Obligations.WordsOfEachFamilyDecodeToTheirRow :=
  ⟨decodeOfEncodeIsTheCommand .bits2b rfl, decodeOfEncodeIsTheCommand .frmBysEnc rfl,
    decodeOfEncodeIsTheCommand (.frmPass 15#4 .receive) rfl, decodeOfEncodeIsTheCommand .crcChk rfl,
    decodeOfEncodeIsTheCommand (.ecPass 6#4 .transmit) rfl, decodeOfEncodeIsTheCommand .amiDec rfl,
    decodeOfEncodeIsTheCommand .qam16Mod rfl, decodeOfEncodeIsTheCommand (.pbUnknown 4#4 .transmit) rfl,
    decodeOfEncodeIsTheCommand (.illegal 0b0001000100000010#16) rfl⟩

end Sys2Proof
end

section
/-! Whose turn it is: what one step does in a BUSY and in an IDLE block, and the runs of the host's pseudo-operations
WAIT and CHAIN (30_encoding.md R87; 60_exceptions.md R252). -/

namespace Sys2Proof.Machine

/-! ## One step -/

/-- The engine's turn: no host step is left to wait for, or the host has none to take (60_exceptions.md R252). -/
theorem step_of_busy_ready {s : State} {l : Latched} {wait : Nat} (he : s.engine = .busy l wait)
    (hready : wait = 0 ∨ s.script = []) : step s = exec (decode l.cmd) s := by
  have hturn : engineTurn s = some l.cmd := by
    cases wait with
    | zero => simp [engineTurn, he]
    | succ wait => simp [engineTurn, he, hready.resolve_left wait.succ_ne_zero]
  simp [step, hturn]

section
variable {s : State} {op : HostOp} {rest : List HostOp} (hs : s.script = op :: rest)
include hs

/-- Without the engine's turn a step is the host's next operation. -/
theorem step_of_no_turn (hturn : engineTurn s = none) : step s = hostOp op (s.takeOp rest) := by
  simp [step, hturn, hostTurn, hs]

/-- In an IDLE block every step is the host's. -/
theorem step_of_idle (he : s.engine = .idle) : step s = hostOp op { s with script := rest } := by
  rw [step_of_no_turn hs (engineTurn_idle he), State.takeOp, he, Engine.tick_idle, ← he]

/-- While there are host steps to wait for, a step is the host's and leaves one less. -/
theorem step_of_busy_waiting {l : Latched} {wait : Nat} (he : s.engine = .busy l (wait + 1)) :
    step s = hostOp op { s with script := rest, engine := .busy l wait } := by
  have hturn : engineTurn s = none := by simp [engineTurn, he, hs]
  rw [step_of_no_turn hs hturn, State.takeOp, he, Engine.tick_busy, Nat.add_sub_cancel]

end

/-- Settles O5: both clauses are the engine's turn; the second at the word that `withFetchWord` has latched. -/
theorem stepRunsTheLatchedCommand : Obligations.StepRunsTheLatchedCommand := by
  refine ⟨fun s l wait he hready => step_of_busy_ready he hready, fun s w hw => ?_⟩
  have hword : w % 2 ^ 16 = w := Nat.mod_eq_of_lt hw
  rw [State.withFetchWord, hword]
  exact step_of_busy_ready (State.placeCommand_engine s (BitVec.ofNat 16 w)) (.inl rfl)

/-- A run is a step and the rest of the run. -/
theorem run_succ_of_step {s t : State} (h : step s = .next t) (n : Nat) :
    Sys2Proof.core.run (n + 1) s = Sys2Proof.core.run n t := by
  have hcore : Sys2Proof.core.step s = .next t := h
  simp only [Host.Core.run, hcore]

/-! ## WAIT -/

/-- STATUS.BUSY is the engine's phase (10_state.md R25). -/
theorem statusWord_getLsbD_zero (s : State) : s.statusWord.getLsbD 0 = s.isBusy := by
  rw [State.statusWord, BitVec.getLsbD_append, if_pos Nat.one_pos, BitVec.getLsbD_ofBool, decide_eq_true rfl,
    Bool.true_and]

/-- A poll of a BUSY block returns STATUS and polls again (30_encoding.md R87). -/
theorem hostOp_wait_of_busy {s : State} (h : s.isBusy = true) :
    hostOp .wait s = .next { s with script := .wait :: s.script, reads := s.statusWord :: s.reads } := by
  rw [hostOp, hostWait, statusWord_getLsbD_zero, if_pos h]
  rfl

/-- A poll of an IDLE block returns STATUS and is the last (30_encoding.md R87). -/
theorem hostOp_wait_of_idle {s : State} (h : s.engine = .idle) :
    hostOp .wait s = .next { s with reads := s.statusWord :: s.reads } := by
  rw [hostOp, hostWait, statusWord_getLsbD_zero, State.isBusy_idle h, if_neg Bool.false_ne_true]
  rfl

/-- STATUS does not show how many host steps are left, nor what the host holds (10_state.md R25). -/
theorem statusWord_of_busy {s : State} {l : Latched} {wait : Nat} (he : s.engine = .busy l wait) (wait' : Nat)
    (script : List HostOp) (reads : List Word) :
    State.statusWord { s with engine := .busy l wait', script := script, reads := reads } = s.statusWord := by
  have hb := State.isBusy_busy he
  simp only [State.statusWord, hb]
  rfl

/-- A host that waits polls for as long as there are host steps to wait for. -/
theorem run_wait {s : State} {l : Latched} {wait : Nat} {rest : List HostOp} (he : s.engine = .busy l wait)
    (hs : s.script = .wait :: rest) :
    Sys2Proof.core.run wait s
      = .next { s with engine := .busy l 0, reads := List.replicate wait s.statusWord ++ s.reads } := by
  induction wait generalizing s with
  | zero =>
    rw [← he]
    rfl
  | succ wait ih =>
    have hstep : step s = .next { s with engine := .busy l wait, reads := s.statusWord :: s.reads } := by
      rw [step_of_busy_waiting hs he, hostOp_wait_of_busy rfl, statusWord_of_busy he, hs]
    have hrun := ih (s := { s with engine := .busy l wait, reads := s.statusWord :: s.reads }) rfl hs
    rw [statusWord_of_busy he] at hrun
    rw [List.replicate_succ', List.append_assoc]
    exact (run_succ_of_step hstep wait).trans hrun

/-- EXEC of a command that answers next leaves the block IDLE and the host's script as it was (60_exceptions.md
R255). -/
theorem engine_and_script_of_exec {i : Instr} {s t : State} (h : exec i s = .next t) :
    t.engine = .idle ∧ t.script = s.script := by
  rcases exec_cases i s with ⟨hx, -⟩ | ⟨c, hx⟩ | ⟨out, -, hx⟩ <;> rw [hx] at h <;> cases h
  · exact ⟨rfl, rfl⟩
  · exact ⟨rfl, rfl⟩

/-- Settles O20: the polls by `run_wait`, then the engine's turn, and a last poll in the IDLE block EXEC leaves. -/
theorem waitLoopEndsAfterExec : Obligations.WaitLoopEndsAfterExec := by
  intro s l wait rest he hs
  refine ⟨_, rfl, run_wait he hs, step_of_busy_ready rfl (.inl rfl), fun t ht => ?_⟩
  obtain ⟨hidle, hscript⟩ := engine_and_script_of_exec ht
  have hpoll := hostOp_wait_of_idle (s := { t with script := rest }) hidle
  exact (step_of_idle (hscript.trans hs) hidle).trans hpoll

/-! ## CHAIN -/

section
variable {s : State} {rest : List HostOp} (he : s.engine = .idle)
include he

/-- The first step of CHAIN reads OUT_LEN and puts the copies and the write of IN_LEN next (30_encoding.md R87). -/
theorem step_chain (hs : s.script = .chain :: rest) :
    step s = .next { s with
      script := (List.range' 0 s.outLen.toNat).map HostOp.copy ++ .regWrite 0x18 64 (s.outLen.setWidth 64) :: rest
      reads := s.outLen.setWidth 64 :: s.reads } := by
  rw [step_of_idle hs he, ← List.range_eq_range', ← List.singleton_append, ← List.append_assoc]
  rfl

/-- The last step of CHAIN writes OUT_LEN to IN_LEN (30_encoding.md R87). -/
theorem step_write_inLen {len : BitVec 32} (hs : s.script = .regWrite 0x18 64 (len.setWidth 64) :: rest) :
    step s = .next { s with script := rest, inLen := len } := by
  have hwrite := hostOp_regWrite_of_idle (s := { s with script := rest }) he (len.setWidth 64) (offset := 0x18)
    (by decide) (by decide)
  have hlen : (len.setWidth 64).setWidth 32 = len := BitVec.setWidth_setWidth_of_le _ (by decide)
  simp only [regAt, State.writeReg, hlen] at hwrite
  exact (step_of_idle hs he).trans hwrite

/-- The read of an element of OUT in CHAIN puts the write of IN next (30_encoding.md R87). -/
theorem step_copy {i : Nat} (hs : s.script = .copy i :: rest) (hout : i < s.outCap) {v : Word}
    (hv : memRead s.outBuf i = some v) :
    step s = .next { s with script := .inWrite i v :: rest, reads := v :: s.reads } := by
  have hval := hostBufRead_of_written (s := { s with script := rest }) he hout hv
  rw [step_of_idle hs he, hostOp, hostCopy, hval]
  rfl

/-- A host's write of IN as a step (20_memory.md R52). -/
theorem step_inWrite {i : Nat} {v : Word} (hs : s.script = .inWrite i v :: rest) (hin : i < s.inCap) :
    step s = .next { s with script := rest, inBuf := memWrite s.inBuf i v } := by
  have hwrite := hostOp_inWrite_of_lt (s := { s with script := rest }) he hin v
  exact (step_of_idle hs he).trans hwrite

/-- One element of CHAIN takes two steps: the read of OUT and the write of IN. -/
theorem run_copy {i : Nat} (hs : s.script = .copy i :: rest) {v : Word} (hv : memRead s.outBuf i = some v)
    (hout : i < s.outCap) (hin : i < s.inCap) (n : Nat) :
    Sys2Proof.core.run (n + 2) s = Sys2Proof.core.run n
      { s with script := rest, inBuf := memWrite s.inBuf i v, reads := v :: s.reads } := by
  have hwrite := step_inWrite (s := { s with script := .inWrite i v :: rest, reads := v :: s.reads }) he rfl hin
  exact (run_succ_of_step (step_copy he hs hout hv) (n + 1)).trans (run_succ_of_step hwrite n)

end

/-- The copies of CHAIN from index i on: k elements of IN become those of OUT, and only these change. -/
theorem run_copies {s : State} {i k : Nat} {rest : List HostOp} (he : s.engine = .idle)
    (hs : s.script = (List.range' i k).map HostOp.copy ++ rest)
    (hwritten : ∀ j < i + k, ∃ v, memRead s.outBuf j = some v) (hout : i + k ≤ s.outCap) (hin : i + k ≤ s.inCap)
    (n : Nat) :
    ∃ inBuf reads,
      Sys2Proof.core.run (n + 2 * k) s
          = Sys2Proof.core.run n { s with script := rest, inBuf := inBuf, reads := reads }
        ∧ ∀ j, memRead inBuf j = if i ≤ j ∧ j < i + k then memRead s.outBuf j else memRead s.inBuf j := by
  induction k generalizing s i with
  | zero =>
    obtain rfl : s.script = rest := hs
    exact ⟨s.inBuf, s.reads, rfl, fun j => by rw [if_neg (by omega)]⟩
  | succ k ih =>
    obtain ⟨v, hv⟩ := hwritten i (by omega)
    rw [show i + (k + 1) = i + 1 + k by omega] at hwritten hout hin ⊢
    obtain ⟨inBuf, reads, hrest, hbuf⟩ := ih (i := i + 1)
      (s := { s with script := (List.range' (i + 1) k).map HostOp.copy ++ rest
                     inBuf := memWrite s.inBuf i v
                     reads := v :: s.reads }) he rfl hwritten hout hin
    refine ⟨inBuf, reads, (run_copy he hs hv (by omega) (by omega) (n + 2 * k)).trans hrest, fun j => ?_⟩
    rw [hbuf]
    rcases eq_or_ne j i with rfl | hne
    · rw [if_neg (by omega), if_pos (by omega), memRead_memWrite_same, hv]
    · rw [memRead_memWrite_other s.inBuf v hne]
      exact if_congr (by omega) rfl rfl

/-- The whole of CHAIN: IN_LEN becomes OUT_LEN, IN takes OUT's elements, and besides only the host's own fields
change. -/
theorem run_chain {s : State} (hinv : s.Inv) (he : s.engine = .idle) {rest : List HostOp}
    (hs : s.script = .chain :: rest) (hlen : s.outLen.toNat ≤ s.inCap) :
    ∃ inBuf reads,
      Sys2Proof.core.run (2 * s.outLen.toNat + 2) s
          = .next { s with script := rest, inLen := s.outLen, inBuf := inBuf, reads := reads }
        ∧ ∀ j, memRead inBuf j = if j < s.outLen.toNat then memRead s.outBuf j else memRead s.inBuf j := by
  have hstart := run_succ_of_step (step_chain he hs) (1 + 2 * s.outLen.toNat)
  obtain ⟨inBuf, reads, hcopies, hbuf⟩ := run_copies (i := 0) (k := s.outLen.toNat)
    (s := { s with
      script := (List.range' 0 s.outLen.toNat).map HostOp.copy ++ .regWrite 0x18 64 (s.outLen.setWidth 64) :: rest
      reads := s.outLen.setWidth 64 :: s.reads })
    he rfl (fun j hj => hinv.memRead_outBuf_of_lt (by omega)) (by simpa using hinv.outFits) (by simpa using hlen) 1
  have hend := run_succ_of_step (step_write_inLen (rest := rest)
    (s := { s with
      script := .regWrite 0x18 64 (s.outLen.setWidth 64) :: rest
      inBuf := inBuf
      reads := reads }) he rfl) 0
  refine ⟨inBuf, reads, ?_, fun j => by simpa using hbuf j⟩
  rw [show 2 * s.outLen.toNat + 2 = 1 + 2 * s.outLen.toNat + 1 by omega]
  exact hstart.trans (hcopies.trans hend)

/-- Settles O21: what `run_chain` leaves, seen through each register and each element. -/
theorem chainHandsTheOutputOver : Obligations.ChainHandsTheOutputOver := by
  intro s rest hinv he hs hlen
  obtain ⟨inBuf, reads, hrun, hbuf⟩ := run_chain hinv he hs hlen
  refine ⟨_, hrun, rfl, he, rfl, fun j hj => ?copied, fun j hj => ?kept, fun _ => rfl, fun r hr => ?registers⟩
  case copied => exact (hbuf j).trans (if_pos hj)
  case kept => exact (hbuf j).trans (if_neg (Nat.not_lt.2 hj))
  case registers =>
    cases r with
    | inLen => exact absurd rfl hr
    | _ => rfl

end Sys2Proof.Machine
end

section
/-! The bit and byte conversions bit by bit (40_bitvector.md R100 to R104), and the two commands that do them. -/

namespace Sys2Proof.Machine

/-! ## A list given by its index -/

/-- Of n + m entries by index, the first n and then the other m, counted from 0 again. -/
theorem map_range_add {α : Type} (f : Nat → α) (n m : Nat) :
    (List.range (n + m)).map f = (List.range n).map f ++ (List.range m).map fun i => f (n + i) := by
  rw [List.range_add, List.map_append, List.map_map]
  rfl

/-! ## The number a bit sequence stands for -/

/-- Bits after the number n: n moves up one place for each of them. -/
theorem foldl_bits_eq_add (n : Nat) (bt : List Bit) :
    bt.foldl (fun n b => 2 * n + b.toNat) n = n * 2 ^ bt.length + bitsToNat bt := by
  induction bt generalizing n with
  | nil => simp [bitsToNat]
  | cons b bt ih =>
    rw [bitsToNat, List.foldl_cons, List.foldl_cons, ih, ih, List.length_cons, Nat.pow_succ]
    ring

@[simp] theorem bitsToNat_nil : bitsToNat [] = 0 := rfl

/-- The first bit is the most significant one. -/
theorem bitsToNat_cons (b : Bit) (bt : List Bit) : bitsToNat (b :: bt) = b.toNat * 2 ^ bt.length + bitsToNat bt := by
  rw [bitsToNat, List.foldl_cons, foldl_bits_eq_add, Nat.mul_zero, Nat.zero_add]

/-! ## One byte -/

section
variable (b7 b6 b5 b4 b3 b2 b1 b0 : Bit)

/-- The byte of eight bits and the bits of that byte (20_memory.md R59). -/
theorem byteBits_byteOfBits :
    byteBits (byteOfBits b7 b6 b5 b4 b3 b2 b1 b0) = [b7, b6, b5, b4, b3, b2, b1, b0] := by
  revert b7 b6 b5 b4 b3 b2 b1 b0
  decide

/-- The byte of eight bits as the sum of the powers of two its bits stand for. -/
theorem byteOfBits_eq_sum :
    byteOfBits b7 b6 b5 b4 b3 b2 b1 b0 = BitVec.ofNat 8 ((List.range 8).map fun r =>
      ([b7, b6, b5, b4, b3, b2, b1, b0].getD r false).toNat * 2 ^ (7 - r)).sum := by
  simp [byteOfBits, List.range_succ, Nat.add_assoc]

end

/-- A byte is determined by its bits. -/
theorem byteBits_injective : Function.Injective byteBits := by
  intro a b h
  simp only [byteBits, List.cons.injEq, and_true] at h
  obtain ⟨h7, h6, h5, h4, h3, h2, h1, h0⟩ := h
  apply BitVec.eq_of_getLsbD_eq
  intro i hi
  interval_cases i <;> assumption

/-- The first group of eight bits gives the first byte. -/
theorem groupBytes_byteBits_append (b : Byte) (rest : List Bit) :
    groupBytes (byteBits b ++ rest) = b :: groupBytes rest := by
  have hb : byteOfBits (b.getLsbD 7) (b.getLsbD 6) (b.getLsbD 5) (b.getLsbD 4) (b.getLsbD 3) (b.getLsbD 2)
      (b.getLsbD 1) (b.getLsbD 0) = b := byteBits_injective (byteBits_byteOfBits ..)
  simp only [byteBits, List.cons_append, List.nil_append, groupBytes, hb]

/-! ## From bytes to bits -/

/-- Bit q of the bits of a byte sequence (40_bitvector.md R100). -/
theorem bits_eq_map_range (bs : List Byte) :
    bits bs = (List.range (8 * bs.length)).map fun q => (bs.getD (q / 8) 0#8).getLsbD (7 - q % 8) := by
  induction bs with
  | nil => rfl
  | cons b bs ih =>
    have hrest (q : Nat) : (8 + q) / 8 = q / 8 + 1 ∧ (8 + q) % 8 = q % 8 := by omega
    rw [List.length_cons, Nat.mul_succ, Nat.add_comm, map_range_add, bits_cons, ih]
    congr 1
    simp only [hrest, List.getD_cons_succ]

/-! ## From bits to bytes -/

/-- Bits without a group of eight are fewer than eight (20_memory.md R59). -/
theorem length_lt_of_groupBytes_eq_nil {bt : List Bit} (h : groupBytes bt = []) : bt.length < 8 := by
  have hlen := groupBytes_length bt
  rw [h, List.length_nil] at hlen
  omega

/-- Byte j of the groups of eight bits, the first bit of a group as bit 7 (20_memory.md R59). -/
theorem groupBytes_eq_map_range (bt : List Bit) :
    groupBytes bt = (List.range (bt.length / 8)).map fun j => BitVec.ofNat 8
      ((List.range 8).map fun r => (bt.getD (8 * j + r) false).toNat * 2 ^ (7 - r)).sum := by
  induction bt using groupBytes.induct with
  | case1 b7 b6 b5 b4 b3 b2 b1 b0 rest ih =>
    have hlen : (b7 :: b6 :: b5 :: b4 :: b3 :: b2 :: b1 :: b0 :: rest).length / 8 = 1 + rest.length / 8 := by
      simp only [List.length_cons]
      omega
    have hget (j r : Nat) : (b7 :: b6 :: b5 :: b4 :: b3 :: b2 :: b1 :: b0 :: rest).getD (8 * (1 + j) + r) false
        = rest.getD (8 * j + r) false := by
      rw [show 8 * (1 + j) + r = 8 * j + r + 8 by omega]
      rfl
    rw [groupBytes, hlen, map_range_add, ih, byteOfBits_eq_sum]
    simp only [hget]
    rfl
  | case2 bt h =>
    have hnil : groupBytes bt = [] := groupBytes.eq_2 bt h
    rw [hnil, Nat.div_eq_of_lt (length_lt_of_groupBytes_eq_nil hnil)]
    rfl

/-- Padding adds only what reads as zero past the end. -/
theorem padBits_getD (g : Nat) (bt : List Bit) (i : Nat) : (padBits g bt).getD i false = bt.getD i false := by
  rcases lt_or_ge i bt.length with hi | hi
  · exact List.getD_append _ _ _ _ hi
  · rw [padBits, List.getD_append_right _ _ _ _ hi, List.getD_eq_getElem?_getD,
      List.getElem?_getD_replicate_default_eq, List.getD_eq_default _ _ hi]

/-- Padded to a multiple of eight, the bits fill their last group (40_bitvector.md R102). -/
theorem padBits_length_div (bt : List Bit) : (padBits 8 bt).length / 8 = (bt.length + 7) / 8 := by
  rw [← groupBytes_length, ← bytes_length, bytes]

/-- Byte j of the bytes of a bit sequence, zeros past its end (40_bitvector.md R102). -/
theorem bytes_eq_map_range (bt : List Bit) :
    bytes bt = (List.range ((bt.length + 7) / 8)).map fun j => BitVec.ofNat 8
      ((List.range 8).map fun r => (bt.getD (8 * j + r) false).toNat * 2 ^ (7 - r)).sum := by
  simp only [bytes, groupBytes_eq_map_range, padBits_length_div, padBits_getD]

/-! ## Round trip (40_bitvector.md R104) -/

/-- Bits that fill their last group need no padding. -/
theorem padBits_of_dvd {g : Nat} {bt : List Bit} (h : g ∣ bt.length) : padBits g bt = bt := by
  rw [padBits, Nat.mod_eq_zero_of_dvd h, Nat.sub_zero, Nat.mod_self, List.replicate_zero, List.append_nil]

/-- The groups of the bits of bytes are those bytes. -/
theorem groupBytes_bits (bs : List Byte) : groupBytes (bits bs) = bs := by
  induction bs with
  | nil => rfl
  | cons b bs ih => rw [bits_cons, groupBytes_byteBits_append, ih]

@[simp] theorem bytes_bits (bs : List Byte) : bytes (bits bs) = bs := by
  rw [bytes, padBits_of_dvd (bits_length bs ▸ Nat.dvd_mul_right 8 _), groupBytes_bits]

/-- The bits of the groups of whole groups are all the bits. -/
theorem bits_groupBytes {bt : List Bit} (h : 8 ∣ bt.length) : bits (groupBytes bt) = bt := by
  induction bt using groupBytes.induct with
  | case1 b7 b6 b5 b4 b3 b2 b1 b0 rest ih =>
    have hrest : 8 ∣ rest.length := (Nat.dvd_add_left (Nat.dvd_refl 8)).1 h
    rw [groupBytes, bits_cons, byteBits_byteOfBits, ih hrest]
    rfl
  | case2 bt hshort =>
    have hnil : groupBytes bt = [] := groupBytes.eq_2 bt hshort
    have hlen := Nat.eq_zero_of_dvd_of_lt h (length_lt_of_groupBytes_eq_nil hnil)
    rw [hnil, List.eq_nil_of_length_eq_zero hlen, bits_nil]

/-- Padding reaches a whole number of groups. -/
theorem dvd_padBits_length {g : Nat} (hg : 0 < g) (bt : List Bit) : g ∣ (padBits g bt).length :=
  padBits_length hg bt ▸ Nat.dvd_mul_left g _

/-- Bits turned into bytes and back come with the padding. -/
theorem bits_bytes (bt : List Bit) : bits (bytes bt) = padBits 8 bt :=
  bits_groupBytes (dvd_padBits_length (by decide) bt)

/-- Settles O24: the round trips `bytes_bits` and `bits_bytes`, and each function by its index. -/
theorem bitsAndBytesRoundTrip : Obligations.BitsAndBytesRoundTrip :=
  ⟨bytes_bits, bits_bytes, bits_eq_map_range, bytes_eq_map_range, bitsToNat_nil, bitsToNat_cons⟩

/-! ## The commands -/

/-- A command whose rule gives an output ends with it if it fits OUT, and with BufferOverflow if not
(60_exceptions.md R255, R256). -/
theorem runCommand_of_output {α β : Type} (read : Word → α) (write : β → Word)
    (rule : Cfg → List α → Except ErrCode (List β)) {s : State} {es : List Word} {out : List β} (h : s.HasInput es)
    (hr : rule s.operands.cfg (es.map read) = .ok out) :
    (out.length ≤ s.outCap → runCommand read write rule s = .next (s.finishedWith (out.map write)))
      ∧ (s.outCap < out.length → runCommand read write rule s = .next (s.endedWith 11#4)) :=
  ⟨runCommand_ok read write rule h hr, runCommand_too_long read write rule h hr⟩

/-- B2BITS on the input `bs` (40_bitvector.md R101). -/
theorem exec_b2bits {s : State} {bs : List Byte} (h : s.HasBytes bs) :
    (8 * bs.length ≤ s.outCap → exec .b2bits s = .next (s.finishedBits (bits bs)))
      ∧ (s.outCap < 8 * bs.length → exec .b2bits s = .next (s.endedWith 11#4)) := by
  obtain ⟨es, hes, rfl⟩ := h
  rw [← bits_length]
  exact runCommand_of_output readByte writeBit (fun _ bs => .ok (bits bs)) hes rfl

/-- BITS2B on the input `bt` (40_bitvector.md R103). -/
theorem exec_bits2b {s : State} {bt : List Bit} (h : s.HasBits bt) :
    ((bt.length + 7) / 8 ≤ s.outCap → exec .bits2b s = .next (s.finishedBytes (bytes bt)))
      ∧ (s.outCap < (bt.length + 7) / 8 → exec .bits2b s = .next (s.endedWith 11#4)) := by
  obtain ⟨es, hes, rfl⟩ := h
  rw [← bytes_length]
  exact runCommand_of_output readBit writeByte (fun _ bt => .ok (bytes bt)) hes rfl

/-- Settles O22: `exec_b2bits`, with the output by `bits_eq_map_range`. -/
theorem b2bitsGivesTheBitsMsbFirst : Obligations.B2bitsGivesTheBitsMsbFirst := by
  refine ⟨decodeOfEncodeIsTheCommand .b2bits rfl, fun s bs h => ?_⟩
  rw [← bits_eq_map_range]
  exact exec_b2bits h

/-- Settles O23: `exec_bits2b`, with the output by `bytes_eq_map_range`. -/
theorem bits2bGivesTheBytesZeroPadded : Obligations.Bits2bGivesTheBytesZeroPadded := by
  refine ⟨decodeOfEncodeIsTheCommand .bits2b rfl, fun s bt h => ?_⟩
  rw [← bytes_eq_map_range]
  exact exec_bits2b h

end Sys2Proof.Machine
end

section
/-! Commands from bytes to bytes: what each ends with, from what its rule gives. The identity commands and
FRM_LP_ENC and FRM_LP_DEC are settled here (41_framing.md R111 to R115; 42_error_control.md R140 to R142). -/

namespace Sys2Proof.Machine

/-! ## From bytes to bytes -/

section
variable {rule : Cfg → List Byte → Except ErrCode (List Byte)} {s : State} {bs : List Byte} (h : s.HasBytes bs)
include h

/-- A command from bytes to bytes whose rule gives an output ends with it if it fits OUT, and with BufferOverflow if
not (60_exceptions.md R255, R256). -/
theorem runCommand_bytes_of_output {out : List Byte} (hr : rule s.operands.cfg bs = .ok out) :
    (out.length ≤ s.outCap → runCommand readByte writeByte rule s = .next (s.finishedBytes out))
      ∧ (s.outCap < out.length → runCommand readByte writeByte rule s = .next (s.endedWith 11#4)) := by
  obtain ⟨es, hes, rfl⟩ := h
  exact runCommand_of_output readByte writeByte rule hes hr

/-- A command on bytes whose rule raises an error ends with its code (60_exceptions.md R255, R257). -/
theorem runCommand_bytes_of_error {c : ErrCode} (hr : rule s.operands.cfg bs = .error c) :
    runCommand readByte writeByte rule s = .next (s.endedWith c.code) := by
  obtain ⟨es, hes, rfl⟩ := h
  exact runCommand_error readByte writeByte rule hes hr

end

/-! ## The identity commands -/

/-- A word with RSVD 0 whose last eight bits are written as one field, RSVD and DIR together (30_encoding.md R71). -/
theorem append_lowByte_eq_cmdWordOf (family variant : BitVec 4) (d : Dir) :
    family ++ variant ++ BitVec.setWidth 8 d.bit = cmdWordOf family variant d := by
  apply BitVec.eq_of_toNat_eq
  have hbit := d.bit.isLt
  rw [toNat_cmdWordOf, toNat_append_eq_add, toNat_append_eq_add, BitVec.toNat_setWidth]
  omega

/-- Every free FRAMING selector is the pass-through command (30_encoding.md R76). -/
theorem decode_frmPass {v : BitVec 4} (hv : 4 ≤ v.toNat) (d : Dir) :
    decode (1#4 ++ v ++ BitVec.setWidth 8 d.bit) = .frmPass v d := by
  rw [append_lowByte_eq_cmdWordOf]
  exact decodeOfEncodeIsTheCommand (.frmPass v d) (decide_eq_true hv)

/-- Every free ERRCTL selector is the pass-through command (30_encoding.md R77). -/
theorem decode_ecPass {v : BitVec 4} (hv : 6 ≤ v.toNat) (d : Dir) :
    decode (2#4 ++ v ++ BitVec.setWidth 8 d.bit) = .ecPass v d := by
  rw [append_lowByte_eq_cmdWordOf]
  exact decodeOfEncodeIsTheCommand (.ecPass v d) (decide_eq_true hv)

/-- The identity commands share one rule, which gives the input back whatever the configuration. -/
theorem exec_of_identity {i : Instr} (hi : i = .frmNoneEnc ∨ i = .frmNoneDec ∨ (∃ v d, i = .frmPass v d)
    ∨ i = .ecNoneEnc ∨ i = .ecNoneDec ∨ ∃ v d, i = .ecPass v d) (s : State) :
    exec i s = runCommand readByte writeByte (fun _ bs => .ok bs) s := by
  rcases hi with rfl | rfl | ⟨v, d, rfl⟩ | rfl | rfl | ⟨v, d, rfl⟩ <;> rfl

/-- Settles O25: the decoder by `decode_frmPass` and `decode_ecPass`, the result by the rule of `exec_of_identity`. -/
theorem identityCommandsCopyTheInput : Obligations.IdentityCommandsCopyTheInput := by
  refine ⟨decodeOfEncodeIsTheCommand .frmNoneEnc rfl, decodeOfEncodeIsTheCommand .frmNoneDec rfl,
    decodeOfEncodeIsTheCommand .ecNoneEnc rfl, decodeOfEncodeIsTheCommand .ecNoneDec rfl,
    fun v hv => ⟨decode_frmPass hv .transmit, decode_frmPass hv .receive⟩,
    fun v hv => ⟨decode_ecPass hv .transmit, decode_ecPass hv .receive⟩, fun s bs h i hi => ?_⟩
  rw [exec_of_identity hi]
  exact runCommand_bytes_of_output h rfl

/-! ## The length byte -/

/-- A payload of at most 254 bytes gets its length plus one in front (41_framing.md R114). -/
theorem lpEncode_of_le {bs : List Byte} (h : bs.length ≤ 254) :
    lpEncode bs = .ok (BitVec.ofNat 8 (bs.length + 1) :: bs) := if_neg (Nat.not_lt.2 h)

/-- A longer payload is FrameTooLarge (41_framing.md R114). -/
theorem lpEncode_of_lt {bs : List Byte} (h : 254 < bs.length) : lpEncode bs = .error .frameTooLarge := if_pos h

/-- Settles O26: FRM_LP_ENC by the two cases of `lpEncode`; FRM_LP_DEC gives the tail of the frame, whatever its
head. -/
theorem lengthPrefixEncodeAndDecode : Obligations.LengthPrefixEncodeAndDecode := by
  refine ⟨decodeOfEncodeIsTheCommand .frmLpEnc rfl, decodeOfEncodeIsTheCommand .frmLpDec rfl, fun s bs h => ?_⟩
  have henc (hle : bs.length ≤ 254) :=
    runCommand_bytes_of_output (rule := fun _ bs => lpEncode bs) h (lpEncode_of_le hle)
  have hdec := runCommand_bytes_of_output (rule := fun _ bs => .ok (lpDecode bs)) h rfl
  rw [lpDecode, List.drop_one, List.length_tail] at hdec
  exact ⟨fun hle => (henc hle).1, fun hle => (henc hle).2,
    fun hlt => runCommand_bytes_of_error (rule := fun _ bs => lpEncode bs) h (lpEncode_of_lt hlt), hdec⟩

end Sys2Proof.Machine
end

section
/-! Frames between two flags, and byte-stuffing: the escaped payload, its length, and the scan that undoes it
(41_framing.md R116 to R122). -/

namespace Sys2Proof.Machine

/-! ## Delimited frames -/

/-- A frame is delimited exactly when it is a body between two flags (41_framing.md R120). -/
theorem delimited_iff (bs : List Byte) : delimited bs = true ↔ ∃ body, bs = 0x7E#8 :: body ++ [0x7E#8] := by
  constructor
  · intro h
    simp only [delimited, Bool.and_eq_true, decide_eq_true_eq, beq_iff_eq] at h
    obtain ⟨⟨hlen, hhead⟩, hlast⟩ := h
    obtain ⟨rest, rfl⟩ := List.head?_eq_some_iff.1 hhead
    obtain ⟨init, hinit⟩ := List.getLast?_eq_some_iff.1 hlast
    cases init with
    | nil =>
      obtain rfl : rest = [] := (List.cons.inj hinit).2
      exact absurd hlen (by decide)
    | cons b body =>
      obtain ⟨rfl, rfl⟩ := List.cons.inj hinit
      exact ⟨body, rfl⟩
  · rintro ⟨body, rfl⟩
    simp [delimited, flagByte, List.getLast?_cons]

/-- The body of a frame is what stands between its flags (41_framing.md R121, R128). -/
theorem frameBody_frame (body : List Byte) : frameBody (0x7E#8 :: body ++ [0x7E#8]) = body := by
  simp [frameBody]

/-- Byte-stuffing decodes the body of a delimited frame (41_framing.md R121). -/
theorem bysDecode_frame (body : List Byte) : bysDecode (0x7E#8 :: body ++ [0x7E#8]) = unescape body := by
  rw [bysDecode, if_pos ((delimited_iff _).2 ⟨body, rfl⟩), frameBody_frame]

/-- Byte-stuffing decodes nothing that is not delimited (41_framing.md R121). -/
theorem bysDecode_of_not_frame {bs : List Byte} (h : ¬ ∃ body, bs = 0x7E#8 :: body ++ [0x7E#8]) :
    bysDecode bs = .error .missingFrameDelimiter := if_neg (mt (delimited_iff bs).1 h)

/-! ## Escaping -/

/-- An escaped byte is the byte after an ESC if it is ESC or FLAG, and else itself (41_framing.md R117). -/
theorem escapeByte_eq (b : Byte) : escapeByte b = if b = 0x7D#8 ∨ b = 0x7E#8 then [0x7D#8, b] else [b] := by
  by_cases hesc : b = 0x7D#8
  · simp [escapeByte, escByte, hesc]
  · by_cases hflag : b = 0x7E#8
    · simp [escapeByte, escByte, flagByte, hflag]
    · simp [escapeByte, escByte, flagByte, hesc, hflag]

theorem bysEncode_eq (bs : List Byte) : bysEncode bs = 0x7E#8 :: bs.flatMap escapeByte ++ [0x7E#8] := rfl

/-- The byte-stuffed frame with its escapes written out (41_framing.md R118). -/
theorem bysEncode_eq_flatMap (bs : List Byte) : bysEncode bs =
    0x7E#8 :: bs.flatMap (fun b => if b = 0x7D#8 ∨ b = 0x7E#8 then [0x7D#8, b] else [b]) ++ [0x7E#8] := by
  rw [bysEncode_eq, ← funext escapeByte_eq]

/-- Escaping adds one byte for every ESC and FLAG (41_framing.md R117). -/
theorem flatMap_escapeByte_length (bs : List Byte) : (bs.flatMap escapeByte).length
    = bs.length + bs.countP (fun b => b == 0x7D#8 || b == 0x7E#8) := by
  induction bs with
  | nil => rfl
  | cons b bs ih =>
    rw [List.flatMap_cons, List.length_append, ih, List.length_cons, List.countP_cons, escapeByte_eq]
    by_cases h : b = 0x7D#8 ∨ b = 0x7E#8
    · simp only [h, if_true, List.length_cons, List.length_nil, Bool.or_eq_true, beq_iff_eq]
      omega
    · simp only [h, if_false, List.length_cons, List.length_nil, Bool.or_eq_true, beq_iff_eq]
      omega

/-- The length of a byte-stuffed frame: the payload, its escapes and the two flags (41_framing.md R118). -/
theorem bysEncode_length (bs : List Byte) :
    (bysEncode bs).length = bs.length + 2 + bs.countP (fun b => b == 0x7D#8 || b == 0x7E#8) := by
  rw [bysEncode_eq, List.length_append, List.length_cons, flatMap_escapeByte_length, List.length_singleton]
  omega

/-- Settles O27: the frame by `bysEncode_eq_flatMap`, its length by `bysEncode_length`. -/
theorem byteStuffingEncode : Obligations.ByteStuffingEncode := by
  refine ⟨decodeOfEncodeIsTheCommand .frmBysEnc rfl, fun s bs h => ?_⟩
  rw [← bysEncode_length, ← bysEncode_eq_flatMap]
  exact runCommand_bytes_of_output (rule := fun _ bs => .ok (bysEncode bs)) h rfl

/-! ## The scan of a body -/

/-- An unescaped byte stands for itself (41_framing.md R121). -/
theorem unescape_literal {b : Byte} (hb : b ≠ 0x7D#8) (body : List Byte) :
    unescape (b :: body) = (unescape body).map (b :: ·) := by
  cases body with
  | nil => exact if_neg hb
  | cons c rest => exact if_neg hb

/-- An ESC makes the next byte literal (41_framing.md R121). -/
theorem unescape_escaped (c : Byte) (body : List Byte) :
    unescape (0x7D#8 :: c :: body) = (unescape body).map (c :: ·) := rfl

/-- An ESC with no next byte is TruncatedEscape (41_framing.md R121). -/
theorem unescape_lone_esc : unescape [0x7D#8] = .error .truncatedEscape := rfl

/-- The scan gives the payload a body stands for, and goes on after it with what follows. -/
theorem unescape_append {body out : List Byte} (h : Laws.EscapedBody body out) (rest : List Byte) :
    unescape (body ++ rest) = (unescape rest).map (out ++ ·) := by
  induction h with
  | empty =>
    rw [List.nil_append]
    cases unescape rest <;> rfl
  | literal b body out hb _ ih =>
    rw [List.cons_append, unescape_literal hb, ih]
    cases unescape rest <;> rfl
  | escaped c body out _ ih =>
    rw [List.cons_append, List.cons_append, unescape_escaped, ih]
    cases unescape rest <;> rfl

/-- The scan of a whole body gives the payload it stands for. -/
theorem unescape_of_escapedBody {body out : List Byte} (h : Laws.EscapedBody body out) : unescape body = .ok out := by
  have hall := unescape_append h []
  rwa [List.append_nil, show unescape [] = .ok [] from rfl, Except.map, List.append_nil] at hall

/-- A body that ends in an unpaired ESC is TruncatedEscape (41_framing.md R121). -/
theorem unescape_truncated {body out : List Byte} (h : Laws.EscapedBody body out) :
    unescape (body ++ [0x7D#8]) = .error .truncatedEscape := by
  rw [unescape_append h, unescape_lone_esc, Except.map]

/-- Every body stands for a payload, or does so up to an unpaired ESC at its end. -/
theorem escapedBody_or_truncated (body : List Byte) : (∃ out, Laws.EscapedBody body out)
    ∨ ∃ pre out, Laws.EscapedBody pre out ∧ body = pre ++ [0x7D#8] := by
  induction body using unescape.induct with
  | case1 => exact .inl ⟨[], .empty⟩
  | case2 => exact .inr ⟨[], [], .empty, rfl⟩
  | case3 b hb => exact .inl ⟨[b], .literal b [] [] hb .empty⟩
  | case4 c rest ih =>
    rcases ih with ⟨out, h⟩ | ⟨pre, out, h, rfl⟩
    · exact .inl ⟨c :: out, .escaped c rest out h⟩
    · exact .inr ⟨0x7D#8 :: c :: pre, c :: out, .escaped c pre out h, rfl⟩
  | case5 b c rest hb ih =>
    rcases ih with ⟨out, h⟩ | ⟨pre, out, h, hpre⟩
    · exact .inl ⟨b :: out, .literal b _ out hb h⟩
    · exact .inr ⟨b :: pre, b :: out, .literal b pre out hb h, congrArg (b :: ·) hpre⟩

/-- Settles O28: what the scan gives for a body, by `unescape_of_escapedBody` and `unescape_truncated`, between the
delimiters of `delimited_iff`. -/
theorem byteStuffingDecode : Obligations.ByteStuffingDecode := by
  refine ⟨decodeOfEncodeIsTheCommand .frmBysDec rfl, fun s => ⟨fun body out hbody h => ?payload,
    fun body out hbody h => ?truncated, fun bs h hframe => ?missing, escapedBody_or_truncated⟩⟩
  case payload =>
    have hr := (bysDecode_frame body).trans (unescape_of_escapedBody hbody)
    exact runCommand_bytes_of_output (rule := fun _ bs => bysDecode bs) h hr
  case truncated =>
    have hr := (bysDecode_frame _).trans (unescape_truncated hbody)
    exact runCommand_bytes_of_error (rule := fun _ bs => bysDecode bs) h hr
  case missing => exact runCommand_bytes_of_error (rule := fun _ bs => bysDecode bs) h (bysDecode_of_not_frame hframe)

/-! ## Round trips -/

/-- The escaped payload stands for the payload. -/
theorem escapedBody_flatMap_escapeByte (p : List Byte) : Laws.EscapedBody (p.flatMap escapeByte) p := by
  induction p with
  | nil => exact .empty
  | cons b p ih =>
    rw [List.flatMap_cons, escapeByte_eq]
    split
    case isTrue => exact .escaped b _ p ih
    case isFalse h => exact .literal b _ p (mt .inl h) ih

/-- Settles O31: the length byte is dropped again, and the escaped payload stands for the payload. -/
theorem byteFramingRoundTrip : Obligations.ByteFramingRoundTrip := by
  refine ⟨fun p hp => ⟨_, lpEncode_of_le hp, rfl⟩, fun p => ?_⟩
  rw [bysEncode_eq, bysDecode_frame]
  exact unescape_of_escapedBody (escapedBody_flatMap_escapeByte p)

end Sys2Proof.Machine
end

section
/-! Bit-stuffing: what `stuff` and `destuff` do up to the first run of five 1 bits and there, the round trip, and that
no flag occurs in stuffed bits (41_framing.md R123 to R129). -/

namespace Sys2Proof.Machine

/-! ## Bits without a run of five -/

/-- Bits behind a 0 hold no run of five if the whole does not. -/
theorem not_hasRunOfFive_of_zero {r : Nat} {bt : List Bit}
    (h : ¬ Laws.HasRunOfFive (List.replicate r true ++ false :: bt)) : ¬ Laws.HasRunOfFive bt :=
  fun hbt => h (hbt.trans ((List.suffix_cons false bt).isInfix.trans (List.suffix_append _ _).isInfix))

/-- A 1 bit after r of them makes r + 1. -/
theorem replicate_append_true_cons (r : Nat) (bt : List Bit) :
    List.replicate r true ++ true :: bt = List.replicate (r + 1) true ++ bt := by
  rw [List.replicate_succ', List.append_assoc, List.singleton_append]

/-- Bits that begin with five 1 bits or more hold a run of five. -/
theorem hasRunOfFive_replicate_append {r : Nat} (hr : 5 ≤ r) (bt : List Bit) :
    Laws.HasRunOfFive (List.replicate r true ++ bt) := by
  obtain ⟨k, rfl⟩ := Nat.exists_eq_add_of_le hr
  rw [List.replicate_add, List.append_assoc]
  exact (List.prefix_append _ _).isInfix

/-- What the scan of `stuff` and that of `destuff` have in common: r counts the 1 bits just passed, and every bit is
copied unless it makes their number five (41_framing.md R124, R127). -/
structure CopiesBelowFive (f : Nat → List Bit → List Bit) : Prop where
  nil : ∀ r, f r [] = []
  zero : ∀ r bt, f r (false :: bt) = false :: f 0 bt
  one : ∀ r bt, r + 1 ≠ 5 → f r (true :: bt) = true :: f (r + 1) bt

namespace CopiesBelowFive

variable {f : Nat → List Bit → List Bit} (hf : CopiesBelowFive f)
include hf

/-- Bits that make no run of five with the r 1 bits before them are copied. -/
theorem eq_self {r : Nat} {bt : List Bit} (h : ¬ Laws.HasRunOfFive (List.replicate r true ++ bt)) : f r bt = bt := by
  induction bt generalizing r with
  | nil => exact hf.nil r
  | cons b bt ih =>
    cases b with
    | false => rw [hf.zero, ih (r := 0) (not_hasRunOfFive_of_zero h)]
    | true =>
      rw [replicate_append_true_cons] at h
      have hr : r + 1 ≠ 5 := fun he => h (hasRunOfFive_replicate_append he.ge bt)
      rw [hf.one r bt hr, ih h]

/-- Bits up to the fifth 1 of the first run of five are copied, and there the counter stands at four. -/
theorem before_first_run {r : Nat} {before : List Bit}
    (h : ¬ Laws.HasRunOfFive (List.replicate r true ++ (before ++ [true, true, true, true]))) (after : List Bit) :
    f r (before ++ [true, true, true, true, true] ++ after)
      = before ++ [true, true, true, true] ++ f 4 (true :: after) := by
  induction before generalizing r with
  | nil =>
    simp only [List.nil_append, replicate_append_true_cons] at h
    have hr : ¬ 5 ≤ r + 1 + 1 + 1 + 1 := fun hr => h (hasRunOfFive_replicate_append hr [])
    obtain rfl : r = 0 := by omega
    simp [hf.one]
  | cons b before ih =>
    cases b with
    | false => exact (hf.zero _ _).trans (congrArg (false :: ·) (ih (r := 0) (not_hasRunOfFive_of_zero h)))
    | true =>
      rw [List.cons_append, replicate_append_true_cons] at h
      have hr : r + 1 ≠ 5 := fun he => h (hasRunOfFive_replicate_append he.ge _)
      exact (hf.one _ _ hr).trans (congrArg (true :: ·) (ih h))

end CopiesBelowFive

/-! ## What `stuff` and `destuff` do with a run of five -/

/-- `stuff` copies bits below five 1 bits in a row (41_framing.md R124). -/
theorem copiesBelowFive_stuffFrom : CopiesBelowFive stuffFrom where
  nil _ := rfl
  zero _ _ := rfl
  one _ _ hr := if_neg hr

/-- After the fifth 1 in a row `stuff` puts a 0 (41_framing.md R124). -/
theorem stuffFrom_fifth_one {r : Nat} (hr : r + 1 = 5) (bt : List Bit) :
    stuffFrom r (true :: bt) = true :: false :: stuffFrom 0 bt := if_pos hr

/-- `destuff` copies bits below five 1 bits in a row (41_framing.md R127). -/
theorem copiesBelowFive_destuffFrom : CopiesBelowFive destuffFrom where
  nil _ := rfl
  zero _ bt := by cases bt <;> rfl
  one r bt hr := by
    cases bt with
    | nil => rfl
    | cons c bt => exact if_neg hr

/-- After the fifth 1 in a row `destuff` drops a bit (41_framing.md R127). -/
theorem destuffFrom_fifth_one {r : Nat} (hr : r + 1 = 5) (dropped : Bit) (bt : List Bit) :
    destuffFrom r (true :: dropped :: bt) = true :: destuffFrom 0 bt := if_pos hr

theorem stuff_of_not_hasRunOfFive {bt : List Bit} (h : ¬ Laws.HasRunOfFive bt) : stuff bt = bt :=
  copiesBelowFive_stuffFrom.eq_self (r := 0) h

theorem destuff_of_not_hasRunOfFive {bt : List Bit} (h : ¬ Laws.HasRunOfFive bt) : destuff bt = bt :=
  copiesBelowFive_destuffFrom.eq_self (r := 0) h

section
variable {before : List Bit} (h : ¬ Laws.HasRunOfFive (before ++ [true, true, true, true]))
include h

/-- The first run of five gets a 0 after it (41_framing.md R124). -/
theorem stuff_first_run (after : List Bit) : stuff (before ++ [true, true, true, true, true] ++ after)
    = before ++ [true, true, true, true, true, false] ++ stuff after := by
  rw [stuff, copiesBelowFive_stuffFrom.before_first_run (r := 0) h, stuffFrom_fifth_one rfl, stuff]
  simp only [List.append_assoc, List.cons_append, List.nil_append]

/-- A first run of five with nothing after it stays (41_framing.md R127). -/
theorem destuff_first_run_at_end : destuff (before ++ [true, true, true, true, true])
    = before ++ [true, true, true, true, true] := by
  have hrun := copiesBelowFive_destuffFrom.before_first_run (r := 0) h []
  rw [List.append_nil] at hrun
  rw [destuff, hrun, destuffFrom, List.append_assoc]
  rfl

/-- The bit after the first run of five is dropped (41_framing.md R127). -/
theorem destuff_first_run (dropped : Bit) (after : List Bit) :
    destuff (before ++ [true, true, true, true, true] ++ dropped :: after)
      = before ++ [true, true, true, true, true] ++ destuff after := by
  rw [destuff, copiesBelowFive_destuffFrom.before_first_run (r := 0) h, destuffFrom_fifth_one rfl, destuff]
  simp only [List.append_assoc, List.cons_append, List.nil_append]

end

/-! ## The commands -/

theorem bisEncode_eq (bs : List Byte) : bisEncode bs = 0x7E#8 :: bytes (stuff (bits bs)) ++ [0x7E#8] := rfl

/-- The length of a bit-stuffed frame: its body and the two flags (41_framing.md R125). -/
theorem bisEncode_length (bs : List Byte) : (bisEncode bs).length = (bytes (stuff (bits bs))).length + 2 := by
  rw [bisEncode_eq, List.length_append, List.length_cons, List.length_singleton]

/-- Settles O29: `stuff` at its first run of five, and the frame of `bisEncode`. -/
theorem bitStuffingEncode : Obligations.BitStuffingEncode := by
  refine ⟨decodeOfEncodeIsTheCommand .frmBisEnc rfl, fun bt h => stuff_of_not_hasRunOfFive h,
    fun before after h => stuff_first_run h after, fun s bs h => ?_⟩
  rw [← bisEncode_length, ← bisEncode_eq]
  exact runCommand_bytes_of_output (rule := fun _ bs => .ok (bisEncode bs)) h rfl

/-- The whole bytes that a bit sequence fills: an incomplete last one is dropped (41_framing.md R128). -/
theorem bytes_wholeBytes_length (d : List Bit) : (bytes (d.take (8 * (d.length / 8)))).length = d.length / 8 := by
  rw [bytes_length, List.length_take]
  omega

/-- Bit-stuffing decodes the body of a delimited frame (41_framing.md R128). -/
theorem bisDecode_frame (body : List Byte) : bisDecode (0x7E#8 :: body ++ [0x7E#8])
    = .ok (bytes ((destuff (bits body)).take (8 * ((destuff (bits body)).length / 8)))) := by
  rw [bisDecode, if_pos ((delimited_iff _).2 ⟨body, rfl⟩), frameBody_frame]

/-- Bit-stuffing decodes nothing that is not delimited (41_framing.md R128). -/
theorem bisDecode_of_not_frame {bs : List Byte} (h : ¬ ∃ body, bs = 0x7E#8 :: body ++ [0x7E#8]) :
    bisDecode bs = .error .missingFrameDelimiter := if_neg (mt (delimited_iff bs).1 h)

/-- Settles O30: `destuff` at its first run of five, and the body between the delimiters of `delimited_iff`. -/
theorem bitStuffingDecode : Obligations.BitStuffingDecode := by
  refine ⟨decodeOfEncodeIsTheCommand .frmBisDec rfl, fun bt h => destuff_of_not_hasRunOfFive h,
    fun before h => ⟨destuff_first_run_at_end h, destuff_first_run h⟩,
    fun s => ⟨fun body h => ?payload, fun bs h hframe => ?missing⟩⟩
  case payload =>
    have hexec := runCommand_bytes_of_output (rule := fun _ bs => bisDecode bs) h (bisDecode_frame body)
    rwa [bytes_wholeBytes_length] at hexec
  case missing => exact runCommand_bytes_of_error (rule := fun _ bs => bisDecode bs) h (bisDecode_of_not_frame hframe)

/-! ## Round trip -/

/-- Zeros are copied: they make no run. -/
theorem destuffFrom_zeros (r k : Nat) : destuffFrom r (List.replicate k false) = List.replicate k false := by
  induction k generalizing r with
  | zero => exact copiesBelowFive_destuffFrom.nil r
  | succ k ih => rw [List.replicate_succ, copiesBelowFive_destuffFrom.zero, ih]

/-- From the same count on, `destuff` takes out just the zeros `stuff` has put in; zeros after them stay. -/
theorem destuffFrom_stuffFrom (r k : Nat) (bt : List Bit) :
    destuffFrom r (stuffFrom r bt ++ List.replicate k false) = bt ++ List.replicate k false := by
  induction bt generalizing r with
  | nil => exact destuffFrom_zeros r k
  | cons b bt ih =>
    cases b with
    | false =>
      rw [copiesBelowFive_stuffFrom.zero, List.cons_append, copiesBelowFive_destuffFrom.zero, ih, List.cons_append]
    | true =>
      by_cases hr : r + 1 = 5
      · rw [stuffFrom_fifth_one hr, List.cons_append, List.cons_append, destuffFrom_fifth_one hr, ih, List.cons_append]
      · rw [copiesBelowFive_stuffFrom.one r bt hr, List.cons_append, copiesBelowFive_destuffFrom.one _ _ hr, ih,
          List.cons_append]

/-- Destuffed, the body of an encoded frame is the payload's bits and fewer than eight zeros. -/
theorem destuff_bits_bytes_stuff (bt : List Bit) :
    ∃ k < 8, destuff (bits (bytes (stuff bt))) = bt ++ List.replicate k false := by
  refine ⟨(8 - (stuff bt).length % 8) % 8, Nat.mod_lt _ (by decide), ?_⟩
  rw [bits_bytes, padBits]
  exact destuffFrom_stuffFrom 0 _ bt

/-- Settles O32: the zeros left after destuffing do not fill a byte, so the whole bytes are the payload. -/
theorem bitStuffingRoundTrip : Obligations.BitStuffingRoundTrip := by
  intro p
  obtain ⟨k, hk, hd⟩ := destuff_bits_bytes_stuff (bits p)
  have hlen : 8 * ((bits p ++ List.replicate k false).length / 8) = (bits p).length := by
    rw [List.length_append, List.length_replicate, bits_length]
    omega
  rw [bisEncode_eq, bisDecode_frame, hd, hlen, List.take_left, bytes_bits]

/-! ## No flag in stuffed bits -/

/-- Bits do not begin with n 1 bits if a 0 comes after fewer. -/
theorem not_ones_isPrefix_of_zero {n r : Nat} (hr : r < n) (l : List Bit) :
    ¬ List.replicate n true <+: List.replicate r true ++ false :: l := by
  intro h
  have hbit := h.getElem (i := r) (by simpa using hr)
  simp at hbit

/-- A run of n 1 bits does not reach over a 0 that fewer than n of them precede. -/
theorem ones_isInfix_after_zero {n r : Nat} (hr : r < n) {l : List Bit}
    (h : List.replicate n true <:+: List.replicate r true ++ false :: l) : List.replicate n true <:+: l := by
  induction r with
  | zero => exact (List.infix_cons_iff.1 h).resolve_left (not_ones_isPrefix_of_zero hr l)
  | succ r ih => exact ih (by omega) ((List.infix_cons_iff.1 h).resolve_left (not_ones_isPrefix_of_zero hr l))

/-- After at most four 1 bits, stuffed bits and zeros after them hold no six 1 bits in a row. -/
theorem not_six_ones_isInfix_stuffFrom {r : Nat} (hr : r < 5) (k : Nat) (bt : List Bit) :
    ¬ List.replicate 6 true <:+: List.replicate r true ++ (stuffFrom r bt ++ List.replicate k false) := by
  induction bt generalizing r with
  | nil =>
    intro h
    have hcount : 6 ≤ r := by simpa [stuffFrom, List.count_replicate] using h.sublist.count_le true
    omega
  | cons b bt ih =>
    intro h
    cases b with
    | false => exact ih (r := 0) (by decide) (ones_isInfix_after_zero (by omega) h)
    | true =>
      by_cases hfive : r + 1 = 5
      · rw [stuffFrom_fifth_one hfive, List.cons_append, replicate_append_true_cons] at h
        exact ih (r := 0) (by decide) (ones_isInfix_after_zero (by omega) h)
      · rw [copiesBelowFive_stuffFrom.one r bt hfive, List.cons_append, replicate_append_true_cons] at h
        exact ih (by omega) h

/-- Padded or not, stuffed bits hold no six 1 bits in a row (41_framing.md R126). -/
theorem not_six_ones_isInfix_stuff (k : Nat) (bt : List Bit) :
    ¬ List.replicate 6 true <:+: stuff bt ++ List.replicate k false :=
  not_six_ones_isInfix_stuffFrom (r := 0) (by decide) k bt

/-- Zero padding adds no 1 bit (41_framing.md R126). -/
theorem count_true_padBits (g : Nat) (bt : List Bit) : (padBits g bt).count true = bt.count true := by
  simp [padBits, List.count_replicate]

/-- Settles O33: by `not_six_ones_isInfix_stuff` with the padding and with none; the flag holds six 1 bits. -/
theorem stuffedBitsHoldNoFlag : Obligations.StuffedBitsHoldNoFlag := by
  intro p
  have hstuff : ¬ List.replicate 6 true <:+: stuff (bits p) := by
    simpa using not_six_ones_isInfix_stuff 0 (bits p)
  have hflag : List.replicate 6 true <:+: [false, true, true, true, true, true, true, false] :=
    ⟨[false], [false], rfl⟩
  exact ⟨not_six_ones_isInfix_stuff _ (bits p), hstuff, count_true_padBits 8 _, fun h => hstuff (hflag.trans h)⟩

end Sys2Proof.Machine
end

section
/-! Even parity and the one's-complement checksum: the count of 1 bits, the running sum in closed form, and the four
commands that append and check one byte (42_error_control.md R143 to R148). -/

namespace Sys2Proof.Machine

/-! ## Even parity -/

/-- The 1 bits of the bytes are those of their bit sequence (42_error_control.md R143). -/
theorem onesCount_eq_count_bits (bs : List Byte) : onesCount bs = (bits bs).count true :=
  List.count_flatMap.symm

/-- The parity byte is 1 for an odd number of 1 bits and 0 for an even one (42_error_control.md R143). -/
theorem parEncode_eq (bs : List Byte) :
    parEncode bs = bs ++ [if (bits bs).count true % 2 = 1 then 1#8 else 0#8] := by
  rw [parEncode, onesCount_eq_count_bits]
  rcases Nat.mod_two_eq_zero_or_one ((bits bs).count true) with h | h <;> simp [h]

theorem parEncode_ne_nil (bs : List Byte) : parEncode bs ≠ [] :=
  List.append_ne_nil_of_right_ne_nil _ (List.cons_ne_nil _ _)

theorem parCheck_nil : parCheck [] = .error .malformedInput := rfl

/-- A block with an odd number of 1 bits is ParityError (42_error_control.md R144). -/
theorem parCheck_of_odd {bs : List Byte} (hne : bs ≠ []) (hodd : (bits bs).count true % 2 = 1) :
    parCheck bs = .error .parityError := by
  have hlen := List.length_pos_iff.2 hne
  rw [parCheck, onesCount_eq_count_bits, if_neg (Nat.not_lt.2 hlen), if_pos hodd]

/-- A block with an even number of 1 bits loses its last byte (42_error_control.md R144). -/
theorem parCheck_of_even {bs : List Byte} (hne : bs ≠ []) (heven : (bits bs).count true % 2 = 0) :
    parCheck bs = .ok bs.dropLast := by
  have hlen := List.length_pos_iff.2 hne
  rw [parCheck, onesCount_eq_count_bits, if_neg (Nat.not_lt.2 hlen), if_neg (by omega), List.dropLast_eq_take]

/-- With its parity byte, a payload has an even number of 1 bits (42_error_control.md R143). -/
theorem count_true_bits_parEncode (bs : List Byte) : (bits (parEncode bs)).count true % 2 = 0 := by
  rw [parEncode_eq, bits_append, List.count_append]
  split
  case isTrue h =>
    rw [show (bits [1#8]).count true = 1 by decide]
    omega
  case isFalse h =>
    rw [show (bits [0#8]).count true = 0 by decide]
    omega

/-! ## One's-complement checksum -/

/-- The sum of the bytes, no carry folded. -/
def byteTotal (bs : List Byte) : Nat := (bs.map (·.toNat)).sum

theorem byteTotal_concat (bs : List Byte) (b : Byte) : byteTotal (bs ++ [b]) = byteTotal bs + b.toNat := by
  simp [byteTotal]

theorem onesComplementSum_eq (bs : List Byte) :
    Laws.onesComplementSum bs = if byteTotal bs = 0 then 0 else (byteTotal bs - 1) % 255 + 1 := rfl

/-- The sum lies in eight bits (42_error_control.md R145). -/
theorem onesComplementSum_le (bs : List Byte) : Laws.onesComplementSum bs ≤ 255 := by
  rw [onesComplementSum_eq]
  split <;> omega

/-- A carry out of eight bits comes back as 1: the end-around addition of one byte (42_error_control.md R145). -/
theorem osumStep_eq {t : Nat} (ht : t ≤ 255) (b : Byte) :
    osumStep t b = if t + b.toNat ≤ 255 then t + b.toNat else t + b.toNat - 255 := by
  have hmask : (t + b.toNat) &&& 0xFF = (t + b.toNat) % 2 ^ 8 := Nat.and_two_pow_sub_one_eq_mod _ 8
  have hb := b.isLt
  rw [osumStep, hmask, Nat.shiftRight_eq_div_pow]
  split <;> omega

/-- The running sum is the one's-complement sum in closed form (42_error_control.md R145). -/
theorem osum_eq_onesComplementSum (bs : List Byte) : osum bs = Laws.onesComplementSum bs := by
  induction bs using List.reverseRecOn with
  | nil => rfl
  | append_singleton bs b ih =>
    have hb := b.isLt
    rw [osum, List.foldl_append, List.foldl_cons, List.foldl_nil, ← osum, ih, osumStep_eq (onesComplementSum_le bs),
      onesComplementSum_eq, onesComplementSum_eq, byteTotal_concat]
    by_cases h0 : byteTotal bs = 0
    · simp only [h0, if_true]
      split <;> split <;> omega
    · simp only [h0, if_false]
      split <;> split <;> omega

theorem osum_le (bs : List Byte) : osum bs ≤ 255 := osum_eq_onesComplementSum bs ▸ onesComplementSum_le bs

/-- The sum of a block with its checksum byte needs no fold and is 0xFF (42_error_control.md R148). -/
theorem osum_csumEncode (bs : List Byte) : osum (csumEncode bs) = 0xFF := by
  have hle := osum_le bs
  have hbyte : (BitVec.ofNat 8 (0xFF - osum bs)).toNat = 0xFF - osum bs := Nat.mod_eq_of_lt (by omega)
  rw [csumEncode, osum, List.foldl_append, List.foldl_cons, List.foldl_nil, ← osum, osumStep_eq hle, hbyte,
    if_pos (by omega)]
  omega

/-- The checksum byte is the complement of the sum (42_error_control.md R146). -/
theorem csumEncode_eq (bs : List Byte) :
    csumEncode bs = bs ++ [0xFF#8 - BitVec.ofNat 8 (Laws.onesComplementSum bs)] := by
  have hle := onesComplementSum_le bs
  rw [csumEncode, osum_eq_onesComplementSum]
  congr 2
  bv_omega

theorem csumEncode_ne_nil (bs : List Byte) : csumEncode bs ≠ [] :=
  List.append_ne_nil_of_right_ne_nil _ (List.cons_ne_nil _ _)

theorem csumCheck_nil : csumCheck [] = .error .malformedInput := rfl

/-- A block whose sum is not 0xFF is ChecksumError (42_error_control.md R147). -/
theorem csumCheck_of_ne {bs : List Byte} (hne : bs ≠ []) (hsum : Laws.onesComplementSum bs ≠ 0xFF) :
    csumCheck bs = .error .checksumError := by
  have hlen := List.length_pos_iff.2 hne
  have hle := onesComplementSum_le bs
  rw [csumCheck, osum_eq_onesComplementSum, if_neg (Nat.not_lt.2 hlen), if_pos (by omega)]

/-- A block whose sum is 0xFF loses its last byte (42_error_control.md R147). -/
theorem csumCheck_of_eq {bs : List Byte} (hne : bs ≠ []) (hsum : Laws.onesComplementSum bs = 0xFF) :
    csumCheck bs = .ok bs.dropLast := by
  have hlen := List.length_pos_iff.2 hne
  rw [csumCheck, osum_eq_onesComplementSum, if_neg (Nat.not_lt.2 hlen), if_neg (by omega), List.dropLast_eq_take]

/-! ## The commands -/

/-- Settles O34: the rules by `parEncode_eq` and `csumEncode_eq`. -/
theorem parityAndChecksumAppend : Obligations.ParityAndChecksumAppend := by
  refine ⟨decodeOfEncodeIsTheCommand .parEnc rfl, decodeOfEncodeIsTheCommand .csumEnc rfl, fun s bs h => ?_⟩
  have hpar := runCommand_bytes_of_output (rule := fun _ bs => .ok (parEncode bs)) h rfl
  have hcsum := runCommand_bytes_of_output (rule := fun _ bs => .ok (csumEncode bs)) h rfl
  rw [parEncode_eq, List.length_append, List.length_singleton] at hpar
  rw [csumEncode_eq, List.length_append, List.length_singleton] at hcsum
  exact ⟨fun hfit => ⟨hpar.1 hfit, hcsum.1 hfit⟩, fun hlong => ⟨hpar.2 hlong, hcsum.2 hlong⟩⟩

/-- Settles O35: one case of `parCheck` and of `csumCheck` for each clause. -/
theorem parityAndChecksumVerify : Obligations.ParityAndChecksumVerify := by
  refine ⟨decodeOfEncodeIsTheCommand .parChk rfl, decodeOfEncodeIsTheCommand .csumChk rfl, fun s bs h =>
    ⟨fun hnil => ?empty, fun hne hodd => ?odd, fun hne heven => ?even, fun hne hsum => ?badSum,
      fun hne hsum => ?goodSum⟩⟩
  case empty =>
    subst hnil
    exact ⟨runCommand_bytes_of_error (rule := fun _ bs => parCheck bs) h parCheck_nil,
      runCommand_bytes_of_error (rule := fun _ bs => csumCheck bs) h csumCheck_nil⟩
  case odd => exact runCommand_bytes_of_error (rule := fun _ bs => parCheck bs) h (parCheck_of_odd hne hodd)
  case even =>
    rw [← List.length_dropLast]
    exact runCommand_bytes_of_output (rule := fun _ bs => parCheck bs) h (parCheck_of_even hne heven)
  case badSum => exact runCommand_bytes_of_error (rule := fun _ bs => csumCheck bs) h (csumCheck_of_ne hne hsum)
  case goodSum =>
    rw [← List.length_dropLast]
    exact runCommand_bytes_of_output (rule := fun _ bs => csumCheck bs) h (csumCheck_of_eq hne hsum)

/-- Settles O36: a block with its own check byte passes, by `count_true_bits_parEncode` and `osum_csumEncode`, and
loses that byte. -/
theorem parityAndChecksumRoundTrip : Obligations.ParityAndChecksumRoundTrip := by
  refine fun p => ⟨?parity, ?checksum, osum_eq_onesComplementSum p, osum_csumEncode p⟩
  case parity =>
    rw [parCheck_of_even (parEncode_ne_nil p) (count_true_bits_parEncode p), parEncode, List.dropLast_concat]
  case checksum =>
    have hsum := (osum_eq_onesComplementSum _).symm.trans (osum_csumEncode p)
    rw [csumCheck_of_eq (csumEncode_ne_nil p) hsum, csumEncode, List.dropLast_concat]

end Sys2Proof.Machine
end

section
/-! The CRC: the shift register as the remainder modulo x^W + P over GF(2), what an odd P keeps apart, the trailer, and
the two commands (42_error_control.md R150 to R155). -/

namespace Sys2Proof.Machine

/-! ## Sums over GF(2) -/

/-- A number below 2^w with one more bit above it. -/
theorem two_pow_mul_toNat_add {w r : Nat} (hr : r < 2 ^ w) (b : Bool) :
    2 ^ w * b.toNat + r = (if b then 2 ^ w else 0) ^^^ r := by
  cases b with
  | false => simp
  | true =>
    apply Nat.eq_of_testBit_eq
    intro i
    rw [Nat.testBit_two_pow_mul_add _ hr, if_pos rfl, Nat.testBit_xor, Nat.testBit_two_pow, Bool.toNat_true]
    rcases lt_trichotomy i w with h | rfl | h
    · simp [h, h.ne']
    · simp [Nat.testBit_lt_two_pow hr]
    · have hlow : r.testBit i = false :=
        Nat.testBit_lt_two_pow (hr.trans_le (Nat.pow_le_pow_right (by decide) h.le))
      have habove : Nat.testBit 1 (i - w) = false := Nat.testBit_lt_two_pow (Nat.one_lt_two_pow (by omega))
      simp [hlow, habove, h.not_gt, h.ne]

/-- A number shifted up by one with a new lowest bit. -/
theorem two_mul_add_toNat (m : Nat) (b : Bool) : 2 * m + b.toNat = m <<< 1 ^^^ b.toNat := by
  apply Nat.eq_of_testBit_eq
  intro i
  rw [Nat.testBit_xor]
  cases i with
  | zero => cases b <;> simp
  | succ i =>
    have hhalf : (2 * m + b.toNat) / 2 = m := by
      have := b.toNat_lt
      omega
    have hshift : m <<< 1 / 2 = m := by
      rw [Nat.shiftLeft_eq]
      omega
    rw [Nat.testBit_succ, hhalf, Nat.testBit_succ, hshift]
    cases b <;> simp [Nat.testBit_succ]

/-- A register of w bits shifted up by one: the bit shifted out, and the bits kept. -/
theorem shiftLeft_one_eq_xor {w c : Nat} (hw : 1 ≤ w) (hc : c < 2 ^ w) :
    c <<< 1 = (if c.testBit (w - 1) then 2 ^ w else 0) ^^^ (c <<< 1) % 2 ^ w := by
  obtain ⟨v, rfl⟩ := Nat.exists_eq_add_of_le' hw
  have htop : (c.testBit v).toNat = c <<< 1 / 2 ^ (v + 1) := by
    rw [Nat.toNat_testBit, Nat.shiftLeft_eq, pow_one, Nat.pow_succ, Nat.mul_div_mul_right _ _ (by decide),
      Nat.mod_eq_of_lt (Nat.div_lt_of_lt_mul (Nat.pow_succ 2 v ▸ hc))]
  rw [Nat.add_sub_cancel, ← two_pow_mul_toNat_add (Nat.mod_lt _ (Nat.two_pow_pos _)), htop, Nat.div_add_mod]

theorem clMul_succ (n a b : Nat) :
    Laws.clMul (n + 1) a b = (if a.testBit n then b <<< n else 0) ^^^ Laws.clMul n a b := rfl

/-- One more factor bit, below the others. -/
theorem clMul_two_mul_add (n q g : Nat) (t : Bool) :
    Laws.clMul (n + 1) (2 * q + t.toNat) g = Laws.clMul n q g <<< 1 ^^^ (if t then g else 0) := by
  have hbit (i : Nat) : (2 * q + t.toNat).testBit (i + 1) = q.testBit i := by
    rw [Nat.testBit_succ]
    congr 1
    have := t.toNat_lt
    omega
  induction n with
  | zero => cases t <;> simp [Laws.clMul]
  | succ n ih =>
    rw [clMul_succ, ih, hbit, clMul_succ n, Nat.shiftLeft_xor_distrib, Nat.xor_assoc]
    congr 1
    split <;> simp [Nat.shiftLeft_add]

/-! ## The shift register -/

/-- One bit through the register, with the generator added where the bit shifted out and the input differ
(42_error_control.md R150). -/
theorem crcStep_eq (width poly c : Nat) (b : Bit) : crcStep width poly c b
    = (c <<< 1) % 2 ^ width ^^^ (if c.testBit (width - 1) != b then poly % 2 ^ width else 0) := by
  simp only [crcStep, Nat.and_two_pow_sub_one_eq_mod]
  split <;> simp

section
variable {w : Nat} (poly : Nat)

/-- The register keeps its width (42_error_control.md R150). -/
theorem crcStep_lt (c : Nat) (b : Bit) : crcStep w poly c b < 2 ^ w := by
  have hmod (x : Nat) : x % 2 ^ w < 2 ^ w := Nat.mod_lt _ (Nat.two_pow_pos w)
  rw [crcStep_eq]
  apply Nat.xor_lt_two_pow (hmod _)
  split
  · exact hmod _
  · exact Nat.two_pow_pos w

/-- The register keeps its width over any bits. -/
theorem foldl_crcStep_lt {c : Nat} (hc : c < 2 ^ w) (bt : List Bit) : bt.foldl (crcStep w poly) c < 2 ^ w := by
  induction bt generalizing c with
  | nil => exact hc
  | cons b bt ih => exact ih (crcStep_lt poly c b)

/-- What one bit does to the register, over GF(2): shift up, add the bit at place w, and take the generator x^w + P away
where a bit stands there (42_error_control.md R150). -/
theorem crcStep_xor_generator (hw : 1 ≤ w) {c : Nat} (hc : c < 2 ^ w) (b : Bit) :
    (if c.testBit (w - 1) != b then 2 ^ w + poly % 2 ^ w else 0) ^^^ crcStep w poly c b
      = c <<< 1 ^^^ b.toNat <<< w := by
  have hgen := two_pow_mul_toNat_add (Nat.mod_lt poly (Nat.two_pow_pos w)) true
  rw [Bool.toNat_true, Nat.mul_one, if_pos rfl] at hgen
  conv_rhs => rw [shiftLeft_one_eq_xor hw hc]
  rw [crcStep_eq, hgen]
  generalize (c <<< 1) % 2 ^ w = kept
  cases c.testBit (w - 1) <;> cases b <;>
    simp [Nat.xor_comm, Nat.xor_left_comm, Nat.shiftLeft_eq]

/-- The message's number with one more bit, at place w and above. -/
theorem bitsToNat_concat_shiftLeft (bt : List Bit) (b : Bit) :
    bitsToNat (bt ++ [b]) <<< w = (bitsToNat bt <<< w) <<< 1 ^^^ b.toNat <<< w := by
  rw [bitsToNat, List.foldl_append, List.foldl_cons, List.foldl_nil, ← bitsToNat, two_mul_add_toNat,
    Nat.shiftLeft_xor_distrib, ← Nat.shiftLeft_add, ← Nat.shiftLeft_add, Nat.add_comm]

/-- The register holds the remainder of the bits so far times x^w modulo x^w + P (42_error_control.md R150). -/
theorem foldl_crcStep_is_remainder (hw : 1 ≤ w) (bt : List Bit) :
    ∃ n q, Laws.clMul n q (2 ^ w + poly % 2 ^ w) ^^^ bt.foldl (crcStep w poly) 0 = bitsToNat bt <<< w := by
  induction bt using List.reverseRecOn with
  | nil => exact ⟨0, 0, by simp [Laws.clMul]⟩
  | append_singleton bt b ih =>
    obtain ⟨n, q, h⟩ := ih
    have hc := foldl_crcStep_lt poly (Nat.two_pow_pos w) bt
    refine ⟨n + 1, 2 * q + ((bt.foldl (crcStep w poly) 0).testBit (w - 1) != b).toNat, ?_⟩
    rw [clMul_two_mul_add, List.foldl_append, List.foldl_cons, List.foldl_nil, Nat.xor_assoc,
      crcStep_xor_generator poly hw hc, ← Nat.xor_assoc, ← Nat.shiftLeft_xor_distrib, h, bitsToNat_concat_shiftLeft]

end

/-- Settles O39: the register of `crc` by `foldl_crcStep_lt` and `foldl_crcStep_is_remainder`. -/
theorem crcIsThePolynomialRemainder : Obligations.CrcIsThePolynomialRemainder :=
  fun bs w poly hw _ => ⟨foldl_crcStep_lt poly (Nat.two_pow_pos w) (bits bs),
    foldl_crcStep_is_remainder poly hw (bits bs)⟩

/-! ## What an odd polynomial keeps apart -/

section
variable {w poly : Nat} (hw : 1 ≤ w) (hodd : poly % 2 = 1)
include hw hodd

/-- With an odd P the lowest bit tells whether the generator was added. -/
theorem crcStep_testBit_zero (c : Nat) (b : Bit) : (crcStep w poly c b).testBit 0 = (c.testBit (w - 1) != b) := by
  have hpoly : (poly % 2 ^ w).testBit 0 = true := by
    rw [Nat.testBit_mod_two_pow, Nat.testBit_zero, hodd]
    simpa using Nat.lt_of_succ_le hw
  rw [crcStep_eq, Nat.testBit_xor, Nat.testBit_mod_two_pow, Nat.testBit_shiftLeft]
  split
  case isTrue h => simp [hpoly, h]
  case isFalse h => simp [h]

/-- An equal bit keeps different registers different. -/
theorem crcStep_injective {c c' : Nat} (hc : c < 2 ^ w) (hc' : c' < 2 ^ w) {b : Bit}
    (h : crcStep w poly c b = crcStep w poly c' b) : c = c' := by
  have htop : c.testBit (w - 1) = c'.testBit (w - 1) := by
    have hbit := congrArg (Nat.testBit · 0) h
    simpa [crcStep_testBit_zero hw hodd] using hbit
  have hkept : (c <<< 1) % 2 ^ w = (c' <<< 1) % 2 ^ w := by
    rwa [crcStep_eq, crcStep_eq, htop, Nat.xor_left_inj] at h
  have hshift : c <<< 1 = c' <<< 1 := by
    rw [shiftLeft_one_eq_xor hw hc, shiftLeft_one_eq_xor hw hc', htop, hkept]
  rw [Nat.shiftLeft_eq, Nat.shiftLeft_eq] at hshift
  omega

/-- Equal bits keep different registers different. -/
theorem foldl_crcStep_injective {c c' : Nat} (hc : c < 2 ^ w) (hc' : c' < 2 ^ w) {bt : List Bit}
    (h : bt.foldl (crcStep w poly) c = bt.foldl (crcStep w poly) c') : c = c' := by
  induction bt generalizing c c' with
  | nil => exact h
  | cons b bt ih =>
    exact crcStep_injective hw hodd hc hc' (ih (crcStep_lt poly c b) (crcStep_lt poly c' b) h)

/-- One inverted bit leaves a different register: the registers part there, and stay apart. -/
theorem foldl_crcStep_modify_ne {j : Nat} {bt : List Bit} (hj : j < bt.length) (c : Nat) :
    (bt.modify j (!·)).foldl (crcStep w poly) c ≠ bt.foldl (crcStep w poly) c := by
  induction bt generalizing j c with
  | nil => exact absurd hj (Nat.not_lt_zero j)
  | cons b bt ih =>
    cases j with
    | zero =>
      intro h
      have hstep : crcStep w poly c (!b) = crcStep w poly c b :=
        foldl_crcStep_injective hw hodd (crcStep_lt poly c _) (crcStep_lt poly c _) h
      have hbit := congrArg (Nat.testBit · 0) hstep
      simp [crcStep_testBit_zero hw hodd] at hbit
    | succ j => exact ih (Nat.lt_of_succ_lt_succ hj) _

end

/-- Inverting bit k of byte i inverts one bit of the bit sequence (40_bitvector.md R100). -/
theorem bits_modify_bit (bs : List Byte) (i : Nat) {k : Nat} (hk : k < 8) :
    bits (bs.modify i fun b => b ^^^ BitVec.ofNat 8 (2 ^ k)) = (bits bs).modify (8 * i + (7 - k)) (!·) := by
  rw [bits_eq_map_range, bits_eq_map_range, List.length_modify]
  apply List.ext_getElem
  · simp
  · intro q hq _
    have hq8 : q / 8 < bs.length := by
      simp at hq
      omega
    have hbit : (BitVec.ofNat 8 (2 ^ k)).getLsbD (7 - q % 8) = decide (k = 7 - q % 8) := by
      rw [BitVec.getLsbD_ofNat, Nat.testBit_two_pow, decide_eq_true (by omega), Bool.true_and]
    simp only [List.getElem_map, List.getElem_range, List.getElem_modify, List.getD_eq_getElem?_getD,
      List.getElem?_modify, List.getElem?_eq_getElem hq8, Option.map_eq_map, Option.map_some, Option.getD_some]
    by_cases hi : i = q / 8
    · rw [if_pos hi, BitVec.getLsbD_xor, hbit]
      split
      · rw [decide_eq_true (by omega), Bool.xor_true]
      · rw [decide_eq_false (by omega), Bool.xor_false]
    · rw [if_neg hi, if_neg (by omega)]

/-- With an odd P, one inverted bit of the payload changes the CRC (42_error_control.md R155). -/
theorem crc_modify_bit_ne {w poly : Nat} (hw : 1 ≤ w) (hodd : poly % 2 = 1) {p : List Byte} {i k : Nat}
    (hi : i < p.length) (hk : k < 8) :
    crc (p.modify i fun b => b ^^^ BitVec.ofNat 8 (2 ^ k)) w poly ≠ crc p w poly := by
  rw [crc, bits_modify_bit p i hk]
  refine foldl_crcStep_modify_ne hw hodd ?_ 0
  rw [bits_length]
  omega

/-! ## The trailer -/

/-- The trailer, its bytes as digits to the base 256 (42_error_control.md R151). -/
theorem crcField_eq (c w : Nat) : crcField c w
    = (List.range ((w + 7) / 8)).map fun j => BitVec.ofNat 8 (c / 256 ^ ((w + 7) / 8 - 1 - j)) := by
  have hshift (m : Nat) : c >>> (8 * m) = c / 256 ^ m := by rw [Nat.shiftRight_eq_div_pow, Nat.pow_mul]
  simp only [crcField, crcBytes, hshift]

/-- Every width from 1 to 32 is legal (42_error_control.md R152). -/
theorem crcGenerate_of_legal {w : Nat} (hw : 1 ≤ w) (hw32 : w ≤ 32) (poly : Nat) (bs : List Byte) :
    crcGenerate w poly bs = .ok (bs ++ crcField (crc bs w poly) w) := if_neg (by omega)

/-- No other width is (42_error_control.md R152). -/
theorem crcGenerate_of_illegal {w : Nat} (hw : w = 0 ∨ 32 < w) (poly : Nat) (bs : List Byte) :
    crcGenerate w poly bs = .error .invalidConfig := if_pos (by omega)

theorem crcCheck_of_illegal {w : Nat} (hw : w = 0 ∨ 32 < w) (poly : Nat) (bs : List Byte) :
    crcCheck w poly bs = .error .invalidConfig := if_pos (by omega)

section
variable {w : Nat} (hw : 1 ≤ w) (hw32 : w ≤ 32) (poly : Nat)
include hw hw32

/-- An input shorter than a trailer is MalformedInput (42_error_control.md R153). -/
theorem crcCheck_of_short {bs : List Byte} (h : bs.length < (w + 7) / 8) :
    crcCheck w poly bs = .error .malformedInput := by
  rw [crcCheck, if_neg (by omega), if_pos (show bs.length < crcBytes w from h)]

/-- A payload and a trailer: the trailer is compared byte for byte (42_error_control.md R153). -/
theorem crcCheck_append (p : List Byte) {tr : List Byte} (h : tr.length = (w + 7) / 8) :
    crcCheck w poly (p ++ tr) = if tr = crcField (crc p w poly) w then .ok p else .error .crcMismatch := by
  have hpayload : (p ++ tr).length - crcBytes w = p.length := by rw [List.length_append, h, crcBytes]; omega
  have hlong : ¬ (p ++ tr).length < crcBytes w := by rw [List.length_append, h, crcBytes]; omega
  rw [crcCheck, if_neg (by omega), if_neg hlong, hpayload, List.take_left, List.drop_left, ite_not]
  simp only [eq_comm]

end

/-! ## The commands -/

/-- Settles O40: the trailer a payload gets is the one CRC_CHK recomputes; one inverted bit by `crc_modify_bit_ne`. -/
theorem crcRoundTripAndSingleBitErrors : Obligations.CrcRoundTripAndSingleBitErrors :=
  fun p w poly hw hw32 => ⟨⟨_, crcGenerate_of_legal hw hw32 poly p,
      (crcCheck_append hw hw32 poly p (crcField_length _ w)).trans (if_pos rfl)⟩,
    fun hodd _ _ hi hk => crc_modify_bit_ne hw hodd hi hk⟩

section
variable {s : State} {bs : List Byte} (h : s.HasBytes bs)
include h

/-- CRC_CHK on an input its rule rejects (42_error_control.md R153). -/
theorem exec_crcChk_of_error {c : ErrCode}
    (hr : crcCheck s.operands.cfg.crcWidth.toNat s.operands.cfg.crcPoly.toNat bs = .error c) :
    exec .crcChk s = .next (s.endedWith c.code) :=
  runCommand_bytes_of_error (rule := fun cfg bs => crcCheck cfg.crcWidth.toNat cfg.crcPoly.toNat bs) h hr

/-- CRC_CHK on an input its rule accepts (42_error_control.md R153). -/
theorem exec_crcChk_of_output {out : List Byte}
    (hr : crcCheck s.operands.cfg.crcWidth.toNat s.operands.cfg.crcPoly.toNat bs = .ok out) :
    (out.length ≤ s.outCap → exec .crcChk s = .next (s.finishedBytes out))
      ∧ (s.outCap < out.length → exec .crcChk s = .next (s.endedWith 11#4)) :=
  runCommand_bytes_of_output (rule := fun cfg bs => crcCheck cfg.crcWidth.toNat cfg.crcPoly.toNat bs) h hr

end

/-- Settles O38: the cases of `crcCheck`, with the comparison of `crcCheck_append`. -/
theorem crcVerify : Obligations.CrcVerify := by
  refine ⟨decodeOfEncodeIsTheCommand .crcChk rfl, fun s =>
    ⟨fun bs h hw => exec_crcChk_of_error h (crcCheck_of_illegal hw _ bs),
      fun bs h hw hw32 hshort => exec_crcChk_of_error h (crcCheck_of_short hw hw32 _ hshort),
      fun p tr h hw hw32 hlen => ?_⟩⟩
  have hcheck := crcCheck_append hw hw32 s.operands.cfg.crcPoly.toNat p hlen
  rw [crcField_eq] at hcheck
  have hok (heq) := exec_crcChk_of_output h (hcheck.trans (if_pos heq))
  exact ⟨fun hne => exec_crcChk_of_error h (hcheck.trans (if_neg hne)), fun heq => (hok heq).1, fun heq => (hok heq).2⟩

/-! `crcGenerate` is the name of the model's rule, so the statement about the command stands in a namespace of its
own. -/

namespace Commands

/-- Settles O37: the two cases of the rule, the trailer by `crcField_eq`. -/
theorem crcGenerate : Obligations.CrcGenerate := by
  refine ⟨decodeOfEncodeIsTheCommand .crcGen rfl, fun s bs h => ⟨fun hw => ?illegal, fun hw hw32 => ?legal⟩⟩
  case illegal =>
    have hr := crcGenerate_of_illegal hw s.operands.cfg.crcPoly.toNat bs
    exact runCommand_bytes_of_error
      (rule := fun cfg bs => Machine.crcGenerate cfg.crcWidth.toNat cfg.crcPoly.toNat bs) h hr
  case legal =>
    have hr := crcGenerate_of_legal hw hw32 s.operands.cfg.crcPoly.toNat bs
    rw [← crcField_eq, ← crcField_length, ← List.length_append]
    exact runCommand_bytes_of_output
      (rule := fun cfg bs => Machine.crcGenerate cfg.crcWidth.toNat cfg.crcPoly.toNat bs) h hr

end Commands

/-- Settles O41: the nine bytes through the register. -/
theorem crcCheckValues : Obligations.CrcCheckValues := by
  unfold Obligations.CrcCheckValues
  decide +kernel

end Sys2Proof.Machine
end

section
/-! One Hamming block: which positions hold parity bits, the parity of a group and the syndrome as the XOR of positions,
and what an encoded and a decoded block are, bit by bit (42_error_control.md R158, R159, R161, R162, R165). -/

namespace Sys2Proof.Machine

/-! ## The parity positions (42_error_control.md R158) -/

/-- p is the smallest integer with 2^p ≥ k + p + 1 (42_error_control.md R158). -/
theorem hamParityBits_spec (k : Nat) :
    k + hamParityBits k + 1 ≤ 2 ^ hamParityBits k ∧ ∀ q < hamParityBits k, 2 ^ q < k + q + 1 := by
  rw [hamParityBits]
  cases hfind : (List.range (k + 2)).find? fun p => decide (k + p + 1 ≤ 2 ^ p) with
  | none =>
    have hk : k < 2 ^ k := Nat.lt_two_pow_self
    have henough : k + (k + 1) + 1 ≤ 2 ^ (k + 1) := by rw [Nat.pow_succ]; omega
    have hnone := List.find?_eq_none.1 hfind (k + 1) (List.mem_range.2 (Nat.lt_succ_self _))
    exact absurd henough (by simpa using hnone)
  | some p =>
    obtain ⟨hp, -, hleast⟩ := List.find?_range_eq_some.1 hfind
    exact ⟨by simpa using hp, fun q hq => by simpa using hleast q hq⟩

/-- The positions of a block fit in p bits. -/
theorem hamBlockBits_lt (k : Nat) : hamBlockBits k < 2 ^ hamParityBits k := (hamParityBits_spec k).1

/-- Every parity position lies in the block. -/
theorem two_pow_le_hamBlockBits {k i : Nat} (hi : i < hamParityBits k) : 2 ^ i ≤ hamBlockBits k := by
  have hleast := (hamParityBits_spec k).2 i hi
  rw [hamBlockBits]
  omega

/-- The parity positions are the powers of two. -/
theorem isPowerOfTwo_iff {q : Nat} (hq : 1 ≤ q) : isPowerOfTwo q = true ↔ ∃ i, q = 2 ^ i := by
  rw [isPowerOfTwo, beq_iff_eq, Nat.and_sub_one_eq_zero_iff_isPowerOfTwo (by omega)]
  rfl

@[simp] theorem isPowerOfTwo_two_pow (i : Nat) : isPowerOfTwo (2 ^ i) = true :=
  (isPowerOfTwo_iff (Nat.two_pow_pos i)).2 ⟨i, rfl⟩

/-- The data positions are the others, in order. -/
theorem dataPositions_eq (n : Nat) : Laws.dataPositions n = (List.range' 1 n).filter (!isPowerOfTwo ·) := by
  refine List.filter_congr fun q hq => ?_
  have hq1 : 1 ≤ q := (List.mem_range'_1.1 hq).1
  rw [decide_not, Bool.not_inj_iff, ← Bool.coe_iff_coe, decide_eq_true_iff, isPowerOfTwo_iff hq1]
  exact ⟨fun h => ⟨_, h.symm⟩, by rintro ⟨i, rfl⟩; rw [Nat.log2_two_pow]⟩

/-- The parity positions of a block are 2^0 to 2^(p - 1). -/
theorem parityPositions_perm (k : Nat) : ((List.range' 1 (hamBlockBits k)).filter (isPowerOfTwo ·)).Perm
    ((List.range (hamParityBits k)).map (2 ^ ·)) := by
  have hinj : Function.Injective (2 ^ · : Nat → Nat) := Nat.pow_right_injective (Nat.le_refl 2)
  refine (List.perm_ext_iff_of_nodup ((List.nodup_range' 1).filter _) (List.nodup_range.map hinj)).2 fun q => ?_
  rw [List.mem_filter, List.mem_range'_1, List.mem_map]
  constructor
  · rintro ⟨⟨hq1, hqn⟩, hpow⟩
    obtain ⟨i, rfl⟩ := (isPowerOfTwo_iff hq1).1 hpow
    have hlt : 2 ^ i < 2 ^ hamParityBits k := (Nat.lt_of_lt_of_eq hqn (Nat.add_comm ..)).trans_le (hamBlockBits_lt k)
    exact ⟨i, List.mem_range.2 ((Nat.pow_lt_pow_iff_right (by decide)).1 hlt), rfl⟩
  · rintro ⟨i, hi, rfl⟩
    have hle := two_pow_le_hamBlockBits (List.mem_range.1 hi)
    exact ⟨⟨Nat.two_pow_pos i, by omega⟩, isPowerOfTwo_two_pow i⟩

/-- A block has k data positions (42_error_control.md R158). -/
theorem dataPositions_length (k : Nat) : (Laws.dataPositions (hamBlockBits k)).length = k := by
  have hparity := (parityPositions_perm k).length_eq
  have hall := List.length_eq_length_filter_add (l := List.range' 1 (hamBlockBits k)) (isPowerOfTwo ·)
  rw [List.length_map, List.length_range] at hparity
  rw [List.length_range', hparity, ← dataPositions_eq, hamBlockBits] at hall
  rw [hamBlockBits]
  omega

/-! ## A block by its positions -/

/-- A block's positions with its bits. -/
theorem zip_blockPositions {n : Nat} {c : List Bit} (h : c.length = n) :
    (blockPositions n).zip c = (List.range' 1 n).map fun q => (q, c.getD (q - 1) false) := by
  subst h
  apply List.ext_getElem
  · simp [blockPositions]
  · intro i hi _
    have hic : i < c.length := by
      simp [blockPositions] at hi
      exact hi
    simp [blockPositions, hic]

/-- The data bits are those at the data positions, in order (42_error_control.md R162). -/
theorem hamDataBits_eq (c : List Bit) :
    hamDataBits c = (Laws.dataPositions c.length).map fun q => c.getD (q - 1) false := by
  rw [hamDataBits, zip_blockPositions rfl, List.filter_map, List.map_map, dataPositions_eq]
  rfl

/-- How many positions of a parity group hold a 1 (42_error_control.md R159). -/
def groupOnes (c : List Bit) (i : Nat) : Nat :=
  (List.range' 1 c.length).countP fun q => q.testBit i && c.getD (q - 1) false

/-- An XOR over a group is the parity of the number of its 1 bits. -/
theorem foldl_group_eq (i : Nat) (f : Nat → Bit) (acc : Bit) (qs : List Nat) :
    qs.foldl (fun acc q => if q.testBit i then acc != f q else acc) acc
      = (acc != decide (qs.countP (fun q => q.testBit i && f q) % 2 = 1)) := by
  induction qs generalizing acc with
  | nil => simp
  | cons q qs ih =>
    rw [List.foldl_cons, ih, List.countP_cons]
    cases hmem : q.testBit i && f q with
    | false => cases hq : q.testBit i <;> simp_all
    | true =>
      obtain ⟨hq, hf⟩ := Bool.and_eq_true_iff.1 hmem
      rcases Nat.mod_two_eq_zero_or_one (qs.countP fun q => q.testBit i && f q) with h | h <;>
        simp [hq, hf, h, Nat.add_mod]

/-- A group's parity is that of the number of its 1 bits (42_error_control.md R159). -/
theorem groupParity_eq (c : List Bit) (i : Nat) : groupParity c i = decide (groupOnes c i % 2 = 1) := by
  rw [groupParity, zip_blockPositions rfl, List.foldl_map, foldl_group_eq, Bool.false_bne, groupOnes]

/-- The group parities are the binary digits of the XOR of the positions that hold a 1 (42_error_control.md R161). -/
theorem testBit_positionsXor (c : List Bit) (i : Nat) : (Laws.positionsXor c).testBit i = groupParity c i := by
  rw [groupParity, zip_blockPositions rfl, List.foldl_map, Laws.positionsXor,
    ← List.foldl_hom (Nat.testBit · i) (g₂ := fun acc q => if q.testBit i then acc != c.getD (q - 1) false else acc),
    Nat.zero_testBit]
  intro acc q
  cases hq : q.testBit i <;> cases hc : c.getD (q - 1) false <;> simp [hq]

/-- The XOR of positions below 2^p lies below 2^p. -/
theorem positionsXor_lt {c : List Bit} {p : Nat} (h : c.length < 2 ^ p) : Laws.positionsXor c < 2 ^ p := by
  refine Nat.lt_pow_two_of_testBit _ fun i hi => ?_
  have hnone : groupOnes c i = 0 := by
    refine List.countP_eq_zero.2 fun q hq => ?_
    have hlt : q < 2 ^ i := by
      have hqn := (List.mem_range'_1.1 hq).2
      have hpi := Nat.pow_le_pow_right (n := 2) (by decide) hi
      omega
    simp [Nat.testBit_lt_two_pow hlt]
  rw [testBit_positionsXor, groupParity_eq, hnone]
  rfl

/-- The binary digits of a number below 2^p give the number. -/
theorem sum_testBit_two_pow (x p : Nat) :
    ((List.range p).map fun i => if x.testBit i then 2 ^ i else 0).sum = x % 2 ^ p := by
  induction p with
  | zero => simp [Nat.mod_one]
  | succ p ih =>
    rw [List.range_succ, List.map_append, List.sum_append, ih, Nat.mod_pow_succ, ← Nat.toNat_testBit]
    cases hbit : x.testBit p <;> simp [hbit]

/-- The syndrome is the XOR of the positions that hold a 1 (42_error_control.md R161). -/
theorem syndrome_eq_positionsXor {p : Nat} {c : List Bit} (h : c.length < 2 ^ p) :
    syndrome p c = Laws.positionsXor c := by
  simp only [syndrome, ← testBit_positionsXor]
  rw [sum_testBit_two_pow, Nat.mod_eq_of_lt (positionsXor_lt h)]

/-! ## Two blocks that differ in one position of a group -/

/-- Counts over a list without repetition that differ at one place at most. -/
theorem countP_add_toNat_of_eq_except {α : Type} [DecidableEq α] {l : List α} (hl : l.Nodup) {a : α} (ha : a ∈ l)
    {f g : α → Bool} (h : ∀ x ∈ l, x ≠ a → f x = g x) : l.countP f + (g a).toNat = l.countP g + (f a).toNat := by
  have hperm := List.perm_cons_erase ha
  have hrest : (l.erase a).countP f = (l.erase a).countP g := by
    refine List.countP_congr fun x hx => ?_
    obtain ⟨hne, hmem⟩ := hl.mem_erase_iff.1 hx
    rw [h x hmem hne]
  rw [hperm.countP_eq f, hperm.countP_eq g, List.countP_cons, List.countP_cons, hrest]
  cases f a <;> cases g a <;> simp

/-- Counts that differ by one have different parities. -/
theorem decide_odd_eq_of_add_toNat_eq {m n : Nat} {x y : Bool} (h : m + x.toNat = n + y.toNat) :
    decide (m % 2 = 1) = (decide (n % 2 = 1) != (y != x)) := by
  rw [← Bool.coe_iff_coe]
  cases x <;> cases y <;> simp at h ⊢ <;> omega

/-- Where two blocks agree on a group but for position a, their parities differ if a is in the group and differs. -/
theorem groupParity_of_eq_except {c c' : List Bit} (hlen : c'.length = c.length) {i a : Nat} (ha1 : 1 ≤ a)
    (ha : a ≤ c.length)
    (h : ∀ q ∈ List.range' 1 c.length, q ≠ a → q.testBit i = true → c'.getD (q - 1) false = c.getD (q - 1) false) :
    groupParity c' i
      = (groupParity c i != (a.testBit i && (c'.getD (a - 1) false != c.getD (a - 1) false))) := by
  have hones := countP_add_toNat_of_eq_except (l := List.range' 1 c.length) (List.nodup_range' 1)
    (List.mem_range'_1.2 ⟨ha1, by omega⟩) (f := fun q => q.testBit i && c'.getD (q - 1) false)
    (g := fun q => q.testBit i && c.getD (q - 1) false) fun q hq hne => by
      cases hbit : q.testBit i with
      | false => rfl
      | true => rw [h q hq hne hbit]
  rw [groupParity_eq, groupParity_eq, groupOnes, groupOnes, hlen, decide_odd_eq_of_add_toNat_eq hones]
  cases a.testBit i <;> simp

/-- Bit q of a block with the bit at position j + 1 inverted. -/
theorem getD_modify_not {c : List Bit} {q : Nat} (hq : q ∈ List.range' 1 c.length) (j : Nat) :
    (c.modify j (!·)).getD (q - 1) false = (c.getD (q - 1) false != decide (q = j + 1)) := by
  obtain ⟨hq1, hqn⟩ := List.mem_range'_1.1 hq
  have hlt : q - 1 < c.length := by omega
  rw [List.getD_eq_getElem _ _ hlt, List.getD_eq_getElem _ _ ((List.length_modify ..).symm ▸ hlt), List.getElem_modify]
  by_cases h : j = q - 1
  · rw [if_pos h, decide_eq_true (by omega), Bool.bne_true]
  · rw [if_neg h, decide_eq_false (by omega), Bool.bne_false]

/-- One inverted bit adds its position to the XOR of positions (42_error_control.md R161, R164). -/
theorem positionsXor_modify {c : List Bit} {j : Nat} (hj : j < c.length) :
    Laws.positionsXor (c.modify j (!·)) = Laws.positionsXor c ^^^ (j + 1) := by
  apply Nat.eq_of_testBit_eq
  intro i
  have hpos : j + 1 ∈ List.range' 1 c.length := List.mem_range'_1.2 ⟨by omega, by omega⟩
  have hsame : ∀ q ∈ List.range' 1 c.length, q ≠ j + 1 → q.testBit i = true →
      (c.modify j (!·)).getD (q - 1) false = c.getD (q - 1) false := fun q hq hne _ => by
    rw [getD_modify_not hq, decide_eq_false hne, Bool.bne_false]
  rw [Nat.testBit_xor, testBit_positionsXor, testBit_positionsXor,
    groupParity_of_eq_except (List.length_modify ..) (by omega) hj hsame, getD_modify_not hpos, decide_eq_true rfl]
  simp

/-! ## Encoding (42_error_control.md R159) -/

/-- A block with its data bits in place and no parity bits yet (42_error_control.md R159). -/
def placedBlock (k : Nat) (d : List Bit) : List Bit := hamPlace (blockPositions (hamBlockBits k)) d

@[simp] theorem placedBlock_length (k : Nat) (d : List Bit) : (placedBlock k d).length = hamBlockBits k := by
  rw [placedBlock, hamPlace_length, blockPositions, List.length_range']

/-- The parity positions hold 0 (42_error_control.md R159). -/
theorem hamPlace_parity (qs : List Nat) (d : List Bit) :
    ∀ qb ∈ qs.zip (hamPlace qs d), isPowerOfTwo qb.1 = true → qb.2 = false := by
  induction qs generalizing d with
  | nil => simp
  | cons q qs ih =>
    rw [hamPlace]
    split <;> rw [List.zip_cons_cons, List.forall_mem_cons]
    case isTrue h => exact ⟨fun _ => rfl, ih d⟩
    case isFalse h => exact ⟨fun hq => absurd hq h, ih d.tail⟩

/-- The other positions hold the data bits in order (42_error_control.md R159). -/
theorem hamPlace_data {qs : List Nat} {d : List Bit} (h : (qs.filter (!isPowerOfTwo ·)).length = d.length) :
    ((qs.zip (hamPlace qs d)).filter fun qb => !isPowerOfTwo qb.1).map (·.2) = d := by
  induction qs generalizing d with
  | nil => exact (List.eq_nil_of_length_eq_zero h.symm).symm
  | cons q qs ih =>
    rw [hamPlace]
    cases hq : isPowerOfTwo q with
    | true =>
      rw [List.filter_cons_of_neg (by simp [hq])] at h
      rw [if_pos rfl, List.zip_cons_cons, List.filter_cons_of_neg (by simp [hq]), ih h]
    | false =>
      rw [List.filter_cons_of_pos (by simp [hq])] at h
      obtain ⟨b, d, rfl⟩ := List.exists_cons_of_length_pos (Nat.lt_of_lt_of_eq (Nat.succ_pos _) h)
      rw [if_neg Bool.false_ne_true, List.zip_cons_cons, List.filter_cons_of_pos (by simp [hq]), List.map_cons,
        List.tail_cons, ih (Nat.succ.inj h)]
      rfl

/-- The data bits of a placed block are those placed. -/
theorem hamDataBits_placedBlock {k : Nat} {d : List Bit} (h : d.length = k) : hamDataBits (placedBlock k d) = d := by
  rw [hamDataBits, placedBlock_length]
  refine hamPlace_data ?_
  rw [blockPositions, ← dataPositions_eq, dataPositions_length, h]

/-- An encoded block by its positions (42_error_control.md R159). -/
theorem hamEncodeBlock_eq (k : Nat) (d : List Bit) : hamEncodeBlock k d = (List.range' 1 (hamBlockBits k)).map fun q =>
    if isPowerOfTwo q then groupParity (placedBlock k d) (Nat.log2 q) else (placedBlock k d).getD (q - 1) false := by
  rw [hamEncodeBlock, ← placedBlock.eq_1, zip_blockPositions (placedBlock_length k d), List.map_map]
  rfl

section
variable (k : Nat) (d : List Bit) {q : Nat} (hq : q ∈ List.range' 1 (hamBlockBits k))
include hq

/-- A placed block holds 0 at its parity positions. -/
theorem placedBlock_parity (hpow : isPowerOfTwo q = true) : (placedBlock k d).getD (q - 1) false = false := by
  refine hamPlace_parity (blockPositions (hamBlockBits k)) d (q, _) ?_ hpow
  rw [← placedBlock, zip_blockPositions (placedBlock_length k d)]
  exact List.mem_map_of_mem hq

/-- Bit q of an encoded block (42_error_control.md R159). -/
theorem hamEncodeBlock_getD : (hamEncodeBlock k d).getD (q - 1) false
    = if isPowerOfTwo q then groupParity (placedBlock k d) (Nat.log2 q) else (placedBlock k d).getD (q - 1) false := by
  obtain ⟨hq1, hqn⟩ := List.mem_range'_1.1 hq
  have hlt : q - 1 < hamBlockBits k := by omega
  have hpos : 1 + (q - 1) = q := by omega
  rw [List.getD_eq_getElem _ _ ((hamEncodeBlock_length k d).symm ▸ hlt)]
  simp only [hamEncodeBlock_eq, List.getElem_map, List.getElem_range', Nat.one_mul, hpos]

end

/-- The data bits of an encoded block are the encoded ones (42_error_control.md R159). -/
theorem hamDataBits_hamEncodeBlock {k : Nat} {d : List Bit} (h : d.length = k) :
    hamDataBits (hamEncodeBlock k d) = d := by
  conv_rhs => rw [← hamDataBits_placedBlock h]
  rw [hamDataBits_eq, hamDataBits_eq, hamEncodeBlock_length, placedBlock_length]
  refine List.map_congr_left fun q hq => ?_
  rw [dataPositions_eq, List.mem_filter, Bool.not_eq_true'] at hq
  rw [hamEncodeBlock_getD k d hq.1, hq.2, if_neg Bool.false_ne_true]

/-- Each parity bit makes its group even: it is the group's only parity position (42_error_control.md R159). -/
theorem groupParity_hamEncodeBlock {k i : Nat} (d : List Bit) (hi : i < hamParityBits k) :
    groupParity (hamEncodeBlock k d) i = false := by
  have hpos : 2 ^ i ∈ List.range' 1 (hamBlockBits k) := by
    have hle := two_pow_le_hamBlockBits hi
    exact List.mem_range'_1.2 ⟨Nat.two_pow_pos i, by omega⟩
  have hsame : ∀ q ∈ List.range' 1 (placedBlock k d).length, q ≠ 2 ^ i → q.testBit i = true →
      (hamEncodeBlock k d).getD (q - 1) false = (placedBlock k d).getD (q - 1) false := by
    intro q hq hne hbit
    rw [placedBlock_length] at hq
    have hdata : isPowerOfTwo q ≠ true := fun hpow => by
      obtain ⟨j, rfl⟩ := (isPowerOfTwo_iff (List.mem_range'_1.1 hq).1).1 hpow
      rw [Nat.testBit_two_pow, decide_eq_true_iff] at hbit
      exact hne (congrArg (2 ^ ·) hbit)
    rw [hamEncodeBlock_getD k d hq, if_neg hdata]
  rw [groupParity_of_eq_except (by simp) (Nat.two_pow_pos i) (by simpa using two_pow_le_hamBlockBits hi) hsame,
    hamEncodeBlock_getD k d hpos, placedBlock_parity k d hpos (isPowerOfTwo_two_pow i), if_pos (isPowerOfTwo_two_pow i),
    Nat.log2_two_pow, Nat.testBit_two_pow_self]
  simp

/-- The positions that hold a 1 in an encoded block cancel out (42_error_control.md R161). -/
theorem positionsXor_hamEncodeBlock (k : Nat) (d : List Bit) : Laws.positionsXor (hamEncodeBlock k d) = 0 := by
  have hlt : (hamEncodeBlock k d).length < 2 ^ hamParityBits k := by simpa using hamBlockBits_lt k
  apply Nat.eq_of_testBit_eq
  intro i
  rw [Nat.zero_testBit]
  rcases lt_or_ge i (hamParityBits k) with hi | hi
  · rw [testBit_positionsXor, groupParity_hamEncodeBlock d hi]
  · exact Nat.testBit_lt_two_pow ((positionsXor_lt hlt).trans_le (Nat.pow_le_pow_right (by decide) hi))

/-! ## Decoding (42_error_control.md R162) -/

/-- Bit q of a block after the correction (42_error_control.md R162). -/
theorem correctBit_getD {c : List Bit} {q : Nat} (hq : q ∈ List.range' 1 c.length) (sy : Nat) :
    (correctBit c sy).getD (q - 1) false = (c.getD (q - 1) false != decide (q = sy)) := by
  obtain ⟨hq1, hqn⟩ := List.mem_range'_1.1 hq
  rw [correctBit]
  split
  case isTrue h => rw [getD_modify_not hq, Nat.sub_add_cancel h.1]
  case isFalse h => rw [decide_eq_false (by omega), Bool.bne_false]

@[simp] theorem correctBit_length (c : List Bit) (sy : Nat) : (correctBit c sy).length = c.length := by
  rw [correctBit]
  split
  · exact List.length_modify ..
  · rfl

/-- The data bits of a block after the correction (42_error_control.md R162). -/
theorem hamDataBits_correctBit (c : List Bit) (sy : Nat) : hamDataBits (correctBit c sy)
    = (Laws.dataPositions c.length).map fun q => c.getD (q - 1) false != decide (q = sy) := by
  rw [hamDataBits_eq, correctBit_length]
  refine List.map_congr_left fun q hq => correctBit_getD ?_ sy
  exact (List.mem_filter.1 (dataPositions_eq c.length ▸ hq)).1

/-- The data bits of a received block, the bit inverted whose position is the XOR of the positions that hold a 1
(42_error_control.md R161, R162). -/
theorem hamDecodeBlock_eq {k : Nat} {c : List Bit} (h : c.length = hamBlockBits k) : hamDecodeBlock k c
    = (Laws.dataPositions c.length).map fun q => c.getD (q - 1) false != decide (q = Laws.positionsXor c) := by
  rw [hamDecodeBlock, syndrome_eq_positionsXor (h ▸ hamBlockBits_lt k), hamDataBits_correctBit]

/-- Settles O42: the number of parity bits by `hamParityBits_spec`, the tables by computing them, an encoded block by
`hamDataBits_hamEncodeBlock` and `groupParity_hamEncodeBlock`, a received one by `hamDecodeBlock_eq`. -/
theorem hammingParityCountAndCodewords : Obligations.HammingParityCountAndCodewords := by
  refine ⟨hamParityBits_spec, by decide +kernel, by decide +kernel, by decide +kernel, fun k d _ hd =>
    ⟨hamEncodeBlock_length k d, ?data, fun i hi => ?parity⟩, fun k c _ h => hamDecodeBlock_eq h⟩
  case data => rw [← hamDataBits_eq, hamDataBits_hamEncodeBlock hd]
  case parity =>
    have heven := groupParity_hamEncodeBlock d hi
    rw [groupParity_eq, decide_eq_false_iff_not] at heven
    exact Nat.mod_two_ne_one.1 heven

end Sys2Proof.Machine
end

section
/-! The Hamming commands: the blocks of a payload, the bit count, the two commands, and the correction of one inverted
bit in each block (42_error_control.md R160, R163, R164). -/

namespace Sys2Proof.Machine

/-! ## Cutting into blocks -/

/-- The blocks of a padded bit sequence by index, zeros past its end (42_error_control.md R160). -/
theorem chunks_padBits {k : Nat} (hk : 1 ≤ k) (bt : List Bit) : chunks k (padBits k bt)
    = (List.range ((bt.length + k - 1) / k)).map fun j => (List.range k).map fun r => bt.getD (j * k + r) false := by
  have hlen := padBits_length hk bt
  rw [chunks, hlen, Nat.mul_div_cancel _ hk]
  refine List.map_congr_left fun j hj => ?_
  have hfits : (j + 1) * k ≤ (padBits k bt).length := hlen ▸ Nat.mul_le_mul_right k (List.mem_range.1 hj)
  rw [Nat.succ_mul] at hfits
  apply List.ext_getElem
  · simp
    omega
  · intro r hr _
    have hrk : r < k := by
      simp at hr
      omega
    rw [List.getElem_take, List.getElem_drop, ← List.getD_eq_getElem _ false, padBits_getD]
    simp

/-- The first block is cut off first. -/
theorem chunks_append {α : Type} {n : Nat} (hn : 0 < n) {blk : List α} (h : blk.length = n) (rest : List α) :
    chunks n (blk ++ rest) = blk :: chunks n rest := by
  have hlen : (blk ++ rest).length / n = rest.length / n + 1 := by
    rw [List.length_append, h, Nat.add_comm, Nat.add_div_right _ hn]
  rw [chunks, hlen, List.range_succ_eq_map, List.map_cons, List.map_map, Nat.zero_mul, List.drop_zero,
    List.take_left' h, chunks]
  congr 1
  refine List.map_congr_left fun j _ => ?_
  rw [Function.comp_apply, Nat.succ_mul, Nat.add_comm, ← List.drop_drop, List.drop_left' h]

/-- Blocks of n elements are what is cut off a sequence that begins with them. -/
theorem chunks_flatten_append {α : Type} {n : Nat} (hn : 0 < n) {blks : List (List α)}
    (h : ∀ blk ∈ blks, blk.length = n) (rest : List α) : chunks n (blks.flatten ++ rest) = blks ++ chunks n rest := by
  induction blks with
  | nil => rfl
  | cons blk blks ih =>
    rw [List.forall_mem_cons] at h
    rw [List.flatten_cons, List.append_assoc, chunks_append hn h.1, ih h.2, List.cons_append]

/-- Whole blocks put together again. -/
theorem flatten_chunks {α : Type} {n : Nat} (hn : 0 < n) {xs : List α} (h : n ∣ xs.length) :
    (chunks n xs).flatten = xs := by
  obtain ⟨m, hm⟩ := h
  induction m generalizing xs with
  | zero =>
    obtain rfl : xs = [] := List.eq_nil_of_length_eq_zero hm
    rw [chunks, List.length_nil, Nat.zero_div]
    rfl
  | succ m ih =>
    have hsplit := List.take_append_drop n xs
    rw [Nat.mul_succ] at hm
    have hlen : (xs.take n).length = n := by rw [List.length_take]; omega
    rw [← hsplit, chunks_append hn hlen, List.flatten_cons, ih (by rw [List.length_drop]; omega)]

/-! ## Encoding (42_error_control.md R160) -/

/-- The bit count as two bytes, big-endian (42_error_control.md R160). -/
theorem countField_eq (n : Nat) : countField n = [BitVec.ofNat 8 (n / 256), BitVec.ofNat 8 (n % 256)] := by
  rw [countField, Nat.shiftRight_eq_div_pow]
  congr 2
  apply BitVec.eq_of_toNat_eq
  simp

theorem hamEncode_zero (bs : List Byte) : hamEncode 0 bs = .error .invalidConfig := rfl

section
variable {k : Nat} (hk : 1 ≤ k)
include hk

/-- More than 8191 bytes have a bit count that two bytes cannot hold (42_error_control.md R160). -/
theorem hamEncode_of_long {bs : List Byte} (h : 8191 < bs.length) : hamEncode k bs = .error .frameTooLarge := by
  rw [hamEncode, if_neg (by omega), if_pos (by omega)]

/-- The encoded blocks, packed, and the bit count (42_error_control.md R160). -/
theorem hamEncode_of_le {bs : List Byte} (h : bs.length ≤ 8191) : hamEncode k bs
    = .ok (bytes ((chunks k (padBits k (bits bs))).flatMap (hamEncodeBlock k)) ++ countField (8 * bs.length)) := by
  rw [hamEncode, if_neg (by omega), if_neg (by omega)]

/-- The encoded blocks take n bits each (42_error_control.md R158, R160). -/
theorem flatMap_hamEncodeBlock_length (bs : List Byte) :
    ((chunks k (padBits k (bits bs))).flatMap (hamEncodeBlock k)).length
      = (8 * bs.length + k - 1) / k * hamBlockBits k := by
  simp only [List.length_flatMap, hamEncodeBlock_length, List.map_const', List.sum_replicate, chunks_length,
    smul_eq_mul, padBits_length hk, Nat.mul_div_cancel _ hk, bits_length]

end

/-- Settles O43: the three cases of `hamEncode`, the blocks by `chunks_padBits`. -/
theorem hammingEncode : Obligations.HammingEncode := by
  refine ⟨decodeOfEncodeIsTheCommand .hamEnc rfl, fun s bs h =>
    ⟨fun hk => ?zero, fun hk hlong => ?long, fun hk hle => ?blocks⟩⟩
  case zero =>
    have hr := hk ▸ hamEncode_zero bs
    exact runCommand_bytes_of_error (rule := fun cfg bs => hamEncode cfg.hamK.toNat bs) h hr
  case long =>
    exact runCommand_bytes_of_error (rule := fun cfg bs => hamEncode cfg.hamK.toNat bs) h (hamEncode_of_long hk hlong)
  case blocks =>
    have hrun := runCommand_bytes_of_output (rule := fun cfg bs => hamEncode cfg.hamK.toNat bs) h
      (hamEncode_of_le hk hle)
    rw [List.length_append, bytes_length, flatMap_hamEncodeBlock_length hk, chunks_padBits hk, List.flatMap_map,
      bits_length, countField_eq] at hrun
    exact hrun

/-! ## Decoding (42_error_control.md R163) -/

theorem hamDecode_zero (bs : List Byte) : hamDecode 0 bs = .error .invalidConfig := rfl

/-- The bit count in the last two bytes (42_error_control.md R163). -/
theorem countOf_append (code : List Byte) (hi lo : Byte) : countOf (code ++ [hi, lo]) = hi.toNat * 256 + lo.toNat := by
  simp [countOf]

section
variable {k : Nat} (hk : 1 ≤ k)
include hk

/-- An input without a whole bit count is MalformedInput (42_error_control.md R163). -/
theorem hamDecode_of_short {bs : List Byte} (h : bs.length < 2) : hamDecode k bs = .error .malformedInput := by
  rw [hamDecode, if_neg (by omega), if_pos h]

/-- The decoded blocks, cut to the bit count and packed (42_error_control.md R163). -/
theorem hamDecode_append (code : List Byte) (hi lo : Byte) : hamDecode k (code ++ [hi, lo])
    = .ok (bytes (((chunks (hamBlockBits k) (bits code)).flatMap (hamDecodeBlock k)).take
        (hi.toNat * 256 + lo.toNat))) := by
  have hcode : (code ++ [hi, lo]).take ((code ++ [hi, lo]).length - 2) = code := by simp
  have hlong : ¬ (code ++ [hi, lo]).length < 2 := by simp
  rw [hamDecode, if_neg (by omega), if_neg hlong, hcode, countOf_append]

end

/-- Settles O44: the three cases of `hamDecode`, the blocks by index. -/
theorem hammingDecode : Obligations.HammingDecode := by
  refine ⟨decodeOfEncodeIsTheCommand .hamDec rfl, fun s => ⟨fun bs h hk => ?zero, fun bs h hk hshort => ?short,
    fun code hi lo h hk => ?blocks⟩⟩
  case zero =>
    have hr := hk ▸ hamDecode_zero bs
    exact runCommand_bytes_of_error (rule := fun cfg bs => hamDecode cfg.hamK.toNat bs) h hr
  case short =>
    exact runCommand_bytes_of_error (rule := fun cfg bs => hamDecode cfg.hamK.toNat bs) h (hamDecode_of_short hk hshort)
  case blocks =>
    have hrun := runCommand_bytes_of_output (rule := fun cfg bs => hamDecode cfg.hamK.toNat bs) h
      (hamDecode_append hk code hi lo)
    rw [bytes_length, chunks, List.flatMap_map, bits_length] at hrun
    exact hrun

/-! ## Correction (42_error_control.md R164) -/

/-- A code block with the bit at an index inverted, if one is given. -/
def invertAt (c : List Bit) : Option Nat → List Bit
  | none => c
  | some q => c.modify q (!·)

@[simp] theorem invertAt_length (c : List Bit) (flip : Option Nat) : (invertAt c flip).length = c.length := by
  cases flip with
  | none => rfl
  | some q => exact List.length_modify ..

/-- An encoded block decodes to its data whatever bit of it is inverted, if any: the XOR of the positions that hold a 1
is 0 without the inversion, and so names the inverted position with it (42_error_control.md R164). -/
theorem hamDecodeBlock_invertAt {k : Nat} {d : List Bit} (hd : d.length = k) {flip : Option Nat}
    (hflip : ∀ q, flip = some q → q < hamBlockBits k) : hamDecodeBlock k (invertAt (hamEncodeBlock k d) flip) = d := by
  have hlen : (invertAt (hamEncodeBlock k d) flip).length = hamBlockBits k := by simp
  conv_rhs => rw [← hamDataBits_hamEncodeBlock hd]
  rw [hamDecodeBlock_eq hlen, hamDataBits_eq, hlen, hamEncodeBlock_length]
  refine List.map_congr_left fun q hq => ?_
  have hpos : q ∈ List.range' 1 (hamEncodeBlock k d).length := by
    rw [dataPositions_eq] at hq
    simpa using (List.mem_filter.1 hq).1
  cases flip with
  | none =>
    rw [invertAt, positionsXor_hamEncodeBlock, decide_eq_false, Bool.bne_false]
    have := (List.mem_range'_1.1 hpos).1
    omega
  | some j =>
    have hj : j < (hamEncodeBlock k d).length := by simpa using hflip j rfl
    rw [invertAt, positionsXor_modify hj, positionsXor_hamEncodeBlock, Nat.zero_xor, getD_modify_not hpos,
      Bool.bne_assoc, bne_self_eq_false, Bool.bne_false]

/-- The code blocks of a payload, each with a bit inverted where `flip` gives one. -/
def receivedBlocks (k : Nat) (flip : Nat → Option Nat) (p : List Byte) : List (List Bit) :=
  (chunks k (padBits k (bits p))).zipIdx.map fun dj => invertAt (hamEncodeBlock k dj.1) (flip dj.2)

theorem length_of_mem_receivedBlocks {k : Nat} {flip : Nat → Option Nat} {p : List Byte} {blk : List Bit}
    (h : blk ∈ receivedBlocks k flip p) : blk.length = hamBlockBits k := by
  obtain ⟨dj, -, rfl⟩ := List.mem_map.1 h
  rw [invertAt_length, hamEncodeBlock_length]

/-- The received blocks decode to the padded bits of the payload. -/
theorem flatMap_hamDecodeBlock_receivedBlocks {k : Nat} (hk : 1 ≤ k) {flip : Nat → Option Nat}
    (hflip : ∀ j q, flip j = some q → q < hamBlockBits k) (p : List Byte) :
    (receivedBlocks k flip p).flatMap (hamDecodeBlock k) = padBits k (bits p) := by
  have hdecoded : (receivedBlocks k flip p).map (hamDecodeBlock k) = chunks k (padBits k (bits p)) := by
    conv_rhs => rw [← List.zipIdx_map_fst 0 (chunks k (padBits k (bits p)))]
    rw [receivedBlocks, List.map_map]
    refine List.map_congr_left fun dj hdj => ?_
    have hlen : dj.1.length = k := length_of_mem_chunks (List.fst_mem_of_mem_zipIdx hdj)
    exact hamDecodeBlock_invertAt hlen (hflip dj.2)
  rw [List.flatMap_def, hdecoded, flatten_chunks hk (dvd_padBits_length hk _)]

/-- The received blocks come first in what HAM_DEC decodes; what the packing adds lies beyond the bit count
(42_error_control.md R163, R164). -/
theorem hamDecode_receivedBlocks {k : Nat} (hk : 1 ≤ k) {flip : Nat → Option Nat}
    (hflip : ∀ j q, flip j = some q → q < hamBlockBits k) {p : List Byte} (hp : p.length ≤ 8191) :
    hamDecode k (bytes (receivedBlocks k flip p).flatten
      ++ [BitVec.ofNat 8 (8 * p.length / 256), BitVec.ofNat 8 (8 * p.length % 256)]) = .ok p := by
  have hcount : (BitVec.ofNat 8 (8 * p.length / 256)).toNat * 256 + (BitVec.ofNat 8 (8 * p.length % 256)).toNat
      = (bits p).length := by
    rw [BitVec.toNat_ofNat, BitVec.toNat_ofNat, bits_length]
    omega
  have hn : 0 < hamBlockBits k := Nat.add_pos_left hk _
  rw [hamDecode_append hk, hcount, bits_bytes, padBits, chunks_flatten_append hn fun _ => length_of_mem_receivedBlocks,
    List.flatMap_append, flatMap_hamDecodeBlock_receivedBlocks hk hflip, padBits, List.append_assoc, List.take_left,
    bytes_bits]

/-- Settles O45: the inverted blocks are `receivedBlocks`. -/
theorem hammingCorrectsOneBitPerBlock : Obligations.HammingCorrectsOneBitPerBlock := by
  intro p k flip hk _ hp hflip
  have hdecode := hamDecode_receivedBlocks hk hflip hp
  rw [receivedBlocks, ← List.flatMap_def] at hdecode
  exact hdecode

end Sys2Proof.Machine
end

section
/-! Hamming(8,4): what each received byte decodes to, what an inverted bit does to a byte's parity and syndrome, and the
two commands (42_error_control.md R170 to R174). -/

namespace Sys2Proof.Machine

/-! ## One received byte (42_error_control.md R172) -/

@[simp] theorem bits_singleton (e : Byte) : bits [e] = byteBits e := List.append_nil _

/-- The syndrome of a received byte: the XOR of the positions that hold a 1 in c[1..7] (42_error_control.md R172). -/
def h84Syndrome (e : Byte) : Nat := Laws.positionsXor ((bits [e]).take 7)

/-- A received byte has an odd number of 1 bits (42_error_control.md R172). -/
abbrev h84Odd (e : Byte) : Prop := (bits [e]).count true % 2 = 1

/-- The value of the four data bits of a block, given by position (42_error_control.md R172). -/
def h84Value (c : Nat → Bit) : BitVec 4 :=
  BitVec.ofNat 4 ((c 3).toNat * 8 + (c 5).toNat * 4 + (c 6).toNat * 2 + (c 7).toNat)

theorem h84Syndrome_eq (e : Byte) : syndrome 3 ((byteBits e).take 7) = h84Syndrome e := by
  rw [h84Syndrome, bits_singleton]
  exact syndrome_eq_positionsXor (c := (byteBits e).take 7) (by decide : 7 < 2 ^ 3)

/-- The data bits of the first seven bits of a byte after the correction of position `sy` (42_error_control.md R172). -/
theorem bitsToNat_correctBit (e : Byte) (sy : Nat) :
    BitVec.ofNat 4 (bitsToNat (hamDataBits (correctBit ((byteBits e).take 7) sy)))
      = h84Value fun q => e.getLsbD (8 - q) != decide (q = sy) := by
  have hdata : Laws.dataPositions ((byteBits e).take 7).length = [3, 5, 6, 7] := by
    rw [show ((byteBits e).take 7).length = 7 from rfl]
    decide
  rw [hamDataBits_correctBit, hdata]
  simp [bitsToNat_cons, byteBits, h84Value, Nat.add_assoc]

/-- What a received byte decodes to, its number of 1 bits and its syndrome named (42_error_control.md R172). -/
theorem h84Decode_eq (e : Byte) : h84Decode e
    = if ¬ h84Odd e ∧ h84Syndrome e ≠ 0 then .error .hammingUncorrectable
      else .ok (BitVec.ofNat 4 (bitsToNat (hamDataBits
        (if h84Odd e then correctBit ((byteBits e).take 7) (h84Syndrome e) else (byteBits e).take 7)))) := by
  have hodd : popcount e % 2 = 1 ↔ h84Odd e := by rw [h84Odd, bits_singleton, popcount]
  have heven : popcount e % 2 = 0 ↔ ¬ h84Odd e := Nat.mod_two_ne_one.symm.trans hodd.not
  simp only [h84Decode, h84Syndrome_eq, hodd, heven]

/-- An even byte with a syndrome has two inverted bits (42_error_control.md R172). -/
theorem h84Decode_of_bad {e : Byte} (hodd : ¬ h84Odd e) (hsy : h84Syndrome e ≠ 0) :
    h84Decode e = .error .hammingUncorrectable :=
  (h84Decode_eq e).trans (if_pos ⟨hodd, hsy⟩)

/-- Any other byte decodes to its data bits, the one at the syndrome inverted; an even byte has none there, its syndrome
being 0 (42_error_control.md R172). -/
theorem h84Decode_of_good {e : Byte} (h : h84Odd e ∨ h84Syndrome e = 0) :
    h84Decode e = .ok (h84Value fun q => e.getLsbD (8 - q) != decide (q = h84Syndrome e)) := by
  have hfixed : (if h84Odd e then correctBit ((byteBits e).take 7) (h84Syndrome e) else (byteBits e).take 7)
      = correctBit ((byteBits e).take 7) (h84Syndrome e) := by
    split
    case isTrue => rfl
    case isFalse hodd => rw [h.resolve_left hodd, correctBit, if_neg (by omega)]
  rw [h84Decode_eq, if_neg fun hbad => h.elim hbad.1 hbad.2, hfixed, bitsToNat_correctBit]

/-- Values agree where the bits at the four data positions do. -/
theorem h84Value_congr {c c' : Nat → Bit} (h : ∀ q ∈ Laws.dataPositions 7, c q = c' q) : h84Value c = h84Value c' := by
  have hdata : Laws.dataPositions 7 = [3, 5, 6, 7] := by decide
  simp only [hdata, List.forall_mem_cons] at h
  obtain ⟨h3, h5, h6, h7, -⟩ := h
  rw [h84Value, h84Value, h3, h5, h6, h7]

/-- What each received byte decodes to, the correction written into the bits (42_error_control.md R172). -/
theorem h84Decode_eq_value (e : Byte) : h84Decode e
    = if ¬ h84Odd e ∧ h84Syndrome e ≠ 0 then .error .hammingUncorrectable
      else .ok (h84Value fun q => e.getLsbD (8 - q) != decide (h84Odd e ∧ q = h84Syndrome e)) := by
  split
  case isTrue hbad => exact h84Decode_of_bad hbad.1 hbad.2
  case isFalse hgood =>
    have hgood : h84Odd e ∨ h84Syndrome e = 0 := by rwa [not_and_or, not_not, not_not] at hgood
    rw [h84Decode_of_good hgood]
    refine congrArg Except.ok (h84Value_congr fun q hq => ?_)
    have hq1 := (List.mem_range'_1.1 (List.mem_filter.1 hq).1).1
    have hsame : q = h84Syndrome e ↔ h84Odd e ∧ q = h84Syndrome e :=
      ⟨fun h => ⟨hgood.resolve_right (by omega), h⟩, And.right⟩
    rw [decide_eq_decide.2 hsame]

/-! ## Inverted bits -/

/-- Inverting one bit changes the parity. -/
theorem count_true_modify_not {bt : List Bit} {j : Nat} (hj : j < bt.length) :
    (bt.modify j (!·)).count true % 2 = (bt.count true + 1) % 2 := by
  induction bt generalizing j with
  | nil => exact absurd hj (Nat.not_lt_zero j)
  | cons b bt ih =>
    cases j with
    | zero => cases b <;> simp [Nat.add_assoc]
    | succ j =>
      have hrest := ih (Nat.lt_of_succ_lt_succ hj)
      rw [List.modify_succ_cons, List.count_cons, List.count_cons]
      omega

/-- The byte with bit b inverted. -/
abbrev flipBit (e : Byte) (b : Fin 8) : Byte := e ^^^ BitVec.ofNat 8 (2 ^ b.val)

theorem bits_flipBit (e : Byte) (b : Fin 8) : bits [flipBit e b] = (bits [e]).modify (7 - b.val) (!·) :=
  (bits_modify_bit [e] 0 b.isLt).trans (congrArg (fun j => (bits [e]).modify j (!·)) (Nat.zero_add _))

theorem getLsbD_flipBit (e : Byte) (b : Fin 8) {i : Nat} (hi : i < 8) :
    (flipBit e b).getLsbD i = (e.getLsbD i != decide (b.val = i)) := by
  rw [flipBit, BitVec.getLsbD_xor, BitVec.getLsbD_ofNat, decide_eq_true hi, Bool.true_and, Nat.testBit_two_pow]

/-- An inverted bit makes an even byte odd and an odd one even. -/
theorem h84Odd_flipBit (e : Byte) (b : Fin 8) : h84Odd (flipBit e b) ↔ ¬ h84Odd e := by
  have hcount := count_true_modify_not (bt := bits [e]) (j := 7 - b.val) (by simp; omega)
  rw [h84Odd, h84Odd, bits_flipBit, hcount]
  omega

/-- An inverted bit adds its position, 8 - b for bit b, to the syndrome; the parity bit, bit 0, has none
(42_error_control.md R170, R172). -/
theorem h84Syndrome_flipBit (e : Byte) (b : Fin 8) : h84Syndrome (flipBit e b) = h84Syndrome e ^^^ (8 - b.val) % 8 := by
  rw [h84Syndrome, h84Syndrome, bits_flipBit, List.take_modify]
  have hlen : ((bits [e]).take 7).length = 7 := by simp
  by_cases hb : b.val = 0
  · rw [hb, List.modify_eq_self hlen.le]
    exact (Nat.xor_zero _).symm
  · rw [positionsXor_modify (by omega), show 7 - b.val + 1 = (8 - b.val) % 8 by omega]

/-! ## Code bytes -/

/-- The first seven bits of a code byte are the Hamming(7,4) block of its nibble (42_error_control.md R174). -/
theorem take_bits_h84Encode (v : BitVec 4) : (bits [h84Encode v]).take 7
    = hamEncodeBlock 4 [v.getLsbD 3, v.getLsbD 2, v.getLsbD 1, v.getLsbD 0] := by
  revert v
  decide +kernel

/-- A code byte has an even number of 1 bits (42_error_control.md R170). -/
theorem not_h84Odd_h84Encode (v : BitVec 4) : ¬ h84Odd (h84Encode v) := by
  revert v
  decide +kernel

theorem h84Syndrome_h84Encode (v : BitVec 4) : h84Syndrome (h84Encode v) = 0 := by
  rw [h84Syndrome, take_bits_h84Encode, positionsXor_hamEncodeBlock]

/-- The data bits of a code byte are those of its nibble (42_error_control.md R170). -/
theorem h84Value_h84Encode (v : BitVec 4) : (h84Value fun q => (h84Encode v).getLsbD (8 - q)) = v := by
  revert v
  decide +kernel

/-- A code byte decodes to its nibble (42_error_control.md R174). -/
theorem h84Decode_h84Encode (v : BitVec 4) : h84Decode (h84Encode v) = .ok v := by
  have hsy := h84Syndrome_h84Encode v
  rw [h84Decode_of_good (.inr hsy), hsy]
  conv_rhs => rw [← h84Value_h84Encode v]
  refine congrArg Except.ok (h84Value_congr fun q hq => ?_)
  have hq1 := (List.mem_range'_1.1 (List.mem_filter.1 hq).1).1
  rw [decide_eq_false (by omega), Bool.bne_false]

/-- A code byte with one bit inverted is odd, its syndrome names the bit, and it decodes to its nibble
(42_error_control.md R174). -/
theorem h84Decode_flipBit (v : BitVec 4) (b : Fin 8) : h84Decode (flipBit (h84Encode v) b) = .ok v := by
  have hsy := h84Syndrome_flipBit (h84Encode v) b
  rw [h84Syndrome_h84Encode, Nat.zero_xor] at hsy
  rw [h84Decode_of_good (.inl ((h84Odd_flipBit _ b).2 (not_h84Odd_h84Encode v))), hsy]
  conv_rhs => rw [← h84Value_h84Encode v]
  refine congrArg Except.ok (h84Value_congr fun q hq => ?_)
  obtain ⟨hq1, hq7⟩ := List.mem_range'_1.1 (List.mem_filter.1 hq).1
  have hsame : decide (b.val = 8 - q) = decide (q = (8 - b.val) % 8) := decide_eq_decide.2 (by omega)
  rw [getLsbD_flipBit _ b (by omega), hsame, Bool.bne_assoc, bne_self_eq_false, Bool.bne_false]

/-- A code byte with two bits inverted is even, and its syndrome is the XOR of two different positions
(42_error_control.md R174). -/
theorem h84Decode_flipBit_flipBit (v : BitVec 4) {a b : Fin 8} (hab : a ≠ b) :
    h84Decode (flipBit (flipBit (h84Encode v) a) b) = .error .hammingUncorrectable := by
  have heven : ¬ h84Odd (flipBit (flipBit (h84Encode v) a) b) := by
    rw [h84Odd_flipBit, h84Odd_flipBit, not_not]
    exact not_h84Odd_h84Encode v
  refine h84Decode_of_bad heven fun hsy => hab ?_
  rw [h84Syndrome_flipBit, h84Syndrome_flipBit, h84Syndrome_h84Encode, Nat.zero_xor, Nat.xor_eq_zero_iff] at hsy
  omega

/-! ## Encoding (42_error_control.md R171) -/

theorem ham84Encode_cons (b : Byte) (bs : List Byte) : ham84Encode (b :: bs)
    = h84Encode (b.extractLsb' 4 4) :: h84Encode (b.extractLsb' 0 4) :: ham84Encode bs := rfl

@[simp] theorem ham84Encode_length (bs : List Byte) : (ham84Encode bs).length = 2 * bs.length := by
  induction bs with
  | nil => rfl
  | cons b bs ih =>
    rw [ham84Encode_cons, List.length_cons, List.length_cons, ih, List.length_cons]
    omega

/-- Code byte q: the high nibble of byte q / 2 for an even q, the low one for an odd q (42_error_control.md R171). -/
theorem ham84Encode_eq_map_range (bs : List Byte) : ham84Encode bs
    = (List.range (2 * bs.length)).map fun q => h84Encode (BitVec.ofNat 4
        (if q % 2 = 0 then (bs.getD (q / 2) 0#8).toNat / 16 else (bs.getD (q / 2) 0#8).toNat % 16)) := by
  induction bs with
  | nil => rfl
  | cons b bs ih =>
    have hhigh : b.extractLsb' 4 4 = BitVec.ofNat 4 (b.toNat / 16) := by
      apply BitVec.eq_of_toNat_eq
      rw [BitVec.extractLsb'_toNat, Nat.shiftRight_eq_div_pow, BitVec.toNat_ofNat]
    have hlow : b.extractLsb' 0 4 = BitVec.ofNat 4 (b.toNat % 16) := by
      apply BitVec.eq_of_toNat_eq
      rw [BitVec.extractLsb'_toNat, Nat.shiftRight_zero, BitVec.toNat_ofNat, Nat.mod_mod]
    have hrest (q : Nat) : (2 + q) / 2 = q / 2 + 1 ∧ (2 + q) % 2 = q % 2 := by omega
    rw [ham84Encode_cons, hhigh, hlow, ih, List.length_cons, Nat.mul_succ, Nat.add_comm, map_range_add]
    simp only [hrest, List.getD_cons_succ]
    rfl

/-- Settles O46: the code bytes by `ham84Encode_eq_map_range`. -/
theorem hamming84Encode : Obligations.Hamming84Encode := by
  refine ⟨decodeOfEncodeIsTheCommand .ham84Enc rfl, fun s bs h => ?_⟩
  rw [← ham84Encode_eq_map_range, ← ham84Encode_length]
  exact runCommand_bytes_of_output (rule := fun _ bs => .ok (ham84Encode bs)) h rfl

/-! ## Decoding (42_error_control.md R173) -/

section
variable {hi lo : Byte} {rest : List Byte}

/-- An uncorrectable first byte ends the scan (42_error_control.md R173). -/
theorem ham84Pairs_of_bad_high {c : ErrCode} (h : h84Decode hi = .error c) :
    ham84Pairs (hi :: lo :: rest) = .error c := by
  rw [ham84Pairs, h]

/-- An uncorrectable second byte ends the scan (42_error_control.md R173). -/
theorem ham84Pairs_of_bad_low {h : BitVec 4} (hh : h84Decode hi = .ok h) {c : ErrCode} (hl : h84Decode lo = .error c) :
    ham84Pairs (hi :: lo :: rest) = .error c := by
  simp only [ham84Pairs, hh, hl]

/-- Two good code bytes give the first byte (42_error_control.md R173). -/
theorem ham84Pairs_of_good {h l : BitVec 4} (hh : h84Decode hi = .ok h) (hl : h84Decode lo = .ok l) :
    ham84Pairs (hi :: lo :: rest) = (ham84Pairs rest).map ((h ++ l) :: ·) := by
  simp only [ham84Pairs, hh, hl]

end

/-- Decoding a code byte gives a nibble or HammingUncorrectable (42_error_control.md R172). -/
theorem h84Decode_cases (e : Byte) : h84Decode e = .error .hammingUncorrectable ∨ ∃ v, h84Decode e = .ok v := by
  rw [h84Decode_eq]
  split
  · exact .inl rfl
  · exact .inr ⟨_, rfl⟩

/-- One uncorrectable code byte anywhere ends the command (42_error_control.md R173). -/
theorem ham84Pairs_of_mem_bad {bs : List Byte} (heven : bs.length % 2 = 0) {e : Byte} (he : e ∈ bs)
    (hbad : h84Decode e = .error .hammingUncorrectable) : ham84Pairs bs = .error .hammingUncorrectable := by
  induction bs using List.twoStepInduction with
  | nil => exact absurd he List.not_mem_nil
  | singleton e => exact absurd heven Nat.one_ne_zero
  | cons_cons hi lo rest ih _ =>
    rcases h84Decode_cases hi with hh | ⟨h, hh⟩
    · exact ham84Pairs_of_bad_high hh
    rcases h84Decode_cases lo with hl | ⟨l, hl⟩
    · exact ham84Pairs_of_bad_low hh hl
    have hrest : e ∈ rest := by
      rcases List.mem_cons.1 he with rfl | he
      · exact nomatch hh.symm.trans hbad
      rcases List.mem_cons.1 he with rfl | he
      · exact nomatch hl.symm.trans hbad
      · exact he
    have hlen : rest.length % 2 = 0 := by
      simp at heven
      omega
    rw [ham84Pairs_of_good hh hl, ih hlen hrest]
    rfl

/-- Two nibbles make a byte, the high one first (42_error_control.md R173). -/
theorem nibbles_append (h l : BitVec 4) : h ++ l = BitVec.ofNat 8 (h.toNat * 16 + l.toNat) := by
  have hh := h.isLt
  have hl := l.isLt
  apply BitVec.eq_of_toNat_eq
  rw [toNat_append_eq_add, BitVec.toNat_ofNat]
  omega

/-- Good code bytes give one byte for each pair of nibbles (42_error_control.md R173). -/
theorem ham84Pairs_of_nibbles {bs : List Byte} {nibbles : List (BitVec 4)} (heven : bs.length % 2 = 0)
    (h : bs.map h84Decode = nibbles.map Except.ok) :
    ham84Pairs bs = .ok ((List.range (bs.length / 2)).map fun j => BitVec.ofNat 8
      ((nibbles.getD (2 * j) 0#4).toNat * 16 + (nibbles.getD (2 * j + 1) 0#4).toNat)) := by
  induction bs using List.twoStepInduction generalizing nibbles with
  | nil => rfl
  | singleton e => exact absurd heven Nat.one_ne_zero
  | cons_cons hi lo rest ih _ =>
    obtain ⟨n, _, rfl, hn, htail⟩ := List.map_eq_cons_iff.1 h.symm
    obtain ⟨m, nibbles, rfl, hm, hrest⟩ := List.map_eq_cons_iff.1 htail
    have hlen : rest.length % 2 = 0 := by
      simp at heven
      omega
    have hhalf : (hi :: lo :: rest).length / 2 = 1 + rest.length / 2 := by
      simp only [List.length_cons]
      omega
    have hget (j : Nat) : 2 * (1 + j) = 2 * j + 1 + 1 := by omega
    rw [ham84Pairs_of_good hn.symm hm.symm, ih hlen hrest.symm, hhalf, map_range_add, nibbles_append]
    simp only [hget, List.getD_cons_succ]
    rfl

theorem ham84Decode_of_odd {bs : List Byte} (h : bs.length % 2 = 1) : ham84Decode bs = .error .malformedInput :=
  if_pos h

theorem ham84Decode_of_even {bs : List Byte} (h : bs.length % 2 = 0) : ham84Decode bs = ham84Pairs bs :=
  if_neg (by omega)

/-- Settles O47: the cases of `ham84Decode` and of the scan over the pairs. -/
theorem hamming84Decode : Obligations.Hamming84Decode := by
  refine ⟨decodeOfEncodeIsTheCommand .ham84Dec rfl, fun s bs h =>
    ⟨fun hodd => ?odd, fun heven hbad => ?bad, fun nibbles heven hgood => ?good⟩⟩
  case odd => exact runCommand_bytes_of_error (rule := fun _ bs => ham84Decode bs) h (ham84Decode_of_odd hodd)
  case bad =>
    obtain ⟨e, he, hones, hsy⟩ := hbad
    have hr := (ham84Decode_of_even heven).trans
      (ham84Pairs_of_mem_bad heven he (h84Decode_of_bad (Nat.mod_two_ne_one.2 hones) hsy))
    exact runCommand_bytes_of_error (rule := fun _ bs => ham84Decode bs) h hr
  case good =>
    have hr := (ham84Decode_of_even heven).trans (ham84Pairs_of_nibbles heven hgood)
    have hrun := runCommand_bytes_of_output (rule := fun _ bs => ham84Decode bs) h hr
    rw [List.length_map, List.length_range] at hrun
    exact hrun

/-! ## Correction and detection (42_error_control.md R174) -/

/-- A code byte decodes to its nibble with one bit inverted and with none. -/
theorem h84Decode_of_flip (v : BitVec 4) (flip : Option (Fin 8)) :
    h84Decode (flip.elim (h84Encode v) (flipBit (h84Encode v))) = .ok v := by
  cases flip with
  | none => exact h84Decode_h84Encode v
  | some b => exact h84Decode_flipBit v b

/-- A byte is its two nibbles. -/
theorem extractLsb'_append_nibbles (b : Byte) : b.extractLsb' 4 4 ++ b.extractLsb' 0 4 = b := by
  apply BitVec.eq_of_toNat_eq
  have hb := b.isLt
  rw [toNat_append_eq_add, BitVec.extractLsb'_toNat, BitVec.extractLsb'_toNat, Nat.shiftRight_eq_div_pow,
    Nat.shiftRight_zero]
  omega

/-- The scan corrects one inverted bit in each code byte (42_error_control.md R174). -/
theorem ham84Pairs_of_flips (p : List Byte) (flip : Nat → Option (Fin 8)) (i : Nat) :
    ham84Pairs (((ham84Encode p).zipIdx i).map fun ej => (flip ej.2).elim ej.1 (flipBit ej.1)) = .ok p := by
  induction p generalizing i with
  | nil => rfl
  | cons b p ih =>
    rw [ham84Encode_cons, List.zipIdx_cons, List.zipIdx_cons, List.map_cons, List.map_cons,
      ham84Pairs_of_good (h84Decode_of_flip _ _) (h84Decode_of_flip _ _), ih, extractLsb'_append_nibbles]
    rfl

/-- Settles O48: `ham84Pairs_of_flips`, `h84Decode_flipBit_flipBit` for one byte of the input, `take_bits_h84Encode`,
and the two cases of `h84Decode`. -/
theorem hamming84CorrectsOneAndDetectsTwo : Obligations.Hamming84CorrectsOneAndDetectsTwo := by
  refine ⟨fun p flip => ?corrects, fun code j v a b heven hj hab => ?detects, take_bits_h84Encode, fun e => ?decodes⟩
  case corrects =>
    have heven : ((ham84Encode p).zipIdx.map fun ej => (flip ej.2).elim ej.1 (flipBit ej.1)).length % 2 = 0 := by simp
    have h := (ham84Decode_of_even heven).trans (ham84Pairs_of_flips p flip 0)
    refine Eq.trans (congrArg ham84Decode (List.map_congr_left fun ej _ => ?_)) h
    cases flip ej.2 <;> rfl
  case detects =>
    have heven' : (code.set j (flipBit (flipBit (h84Encode v) a) b)).length % 2 = 0 := by rwa [List.length_set]
    exact (ham84Decode_of_even heven').trans
      (ham84Pairs_of_mem_bad heven' (List.mem_set hj _) (h84Decode_flipBit_flipBit v hab))
  case decodes => exact h84Decode_eq_value e

end Sys2Proof.Machine
end

section
/-! Integers of either sign in binary64: their sums and exact quotients are exact, and the mean of equal values is the
value (00_scope.md R10; 43_line_coding.md R193). -/

namespace Sys2Proof.Machine

/-! ## Rounding a ratio in other terms -/

section
variable {p q c : Nat} (hc : 0 < c)
include hc

theorem roundQuot_mul_right : roundQuot (p * c) (q * c) = roundQuot p q := by
  have hup : q * c < 2 * (p % q * c) ↔ q < 2 * (p % q) := by
    rw [← Nat.mul_assoc, Nat.mul_lt_mul_right hc]
  have htie : 2 * (p % q * c) = q * c ↔ 2 * (p % q) = q := by
    rw [← Nat.mul_assoc, Nat.mul_left_inj hc.ne']
  simp only [roundQuot, Nat.mul_div_mul_right p q hc, Nat.mul_mod_mul_right, hup, htie]

/-- The rounded magnitude of a ratio does not depend on the terms the ratio is written in. -/
theorem roundMag_mul_right : roundMag (p * c) (q * c) = roundMag p q := by
  simp only [roundMag, Nat.mul_div_mul_right p q hc, Nat.mul_right_comm q c, roundQuot_mul_right hc]

end

/-! ## Integers of either sign -/

theorem inUnits_eq_mul (n : Nat) : inUnits n = n * 2 ^ 1074 := by rw [inUnits, Nat.mul_comm]

theorem inUnits_zero : inUnits 0 = 0 := by rw [inUnits, Nat.mul_zero]

theorem inUnits_pos {n : Nat} (hn : 0 < n) : 0 < inUnits n := by
  have hlt := inUnits_lt.2 hn
  rwa [inUnits_zero] at hlt

theorem inUnits_mul (n m : Nat) : inUnits (n * m) = inUnits n * m := by
  rw [inUnits, inUnits, Nat.mul_assoc]

theorem f64Int_eq (k : Int) : f64Int k = fpack (decide (k < 0)) (roundMag (inUnits k.natAbs) 1) := by
  rw [f64Int]
  split
  case isTrue h => rw [decide_eq_true h, ofRatio, inUnits_eq_mul]
  case isFalse h => rw [decide_eq_false h, f64_eq]

theorem fsign_f64Int (k : Int) : fsign (f64Int k) = decide (k < 0) := by
  rw [f64Int_eq, fsign_fpack _ (roundMag_lt _ _)]

/-- The integer k in units of 2^-1074, with its sign. -/
theorem signed_inUnits (k : Int) :
    (if k < 0 then -(inUnits k.natAbs : Int) else inUnits k.natAbs) = inUnits 1 * k := by
  have hscale : inUnits k.natAbs = inUnits 1 * k.natAbs := by rw [← inUnits_mul, Nat.one_mul]
  rw [hscale, Nat.cast_mul]
  split
  case isTrue h => rw [Int.ofNat_natAbs_of_nonpos h.le, Int.mul_neg, Int.neg_neg]
  case isFalse h => rw [Int.natAbs_of_nonneg (Int.not_lt.1 h)]

section
variable {k : Int} (hk : k.natAbs < 2 ^ 53)
include hk

theorem finite_f64Int : Laws.Finite (f64Int k) := by
  rw [f64Int_eq]
  exact finite_fpack_roundMag (by decide) (inUnits_lt_overflowBound hk) _

theorem fmag_f64Int : fmag (f64Int k) = inUnits k.natAbs := by
  rw [f64Int_eq]
  exact fmag_fpack_roundMag_exact (by decide) (inUnits_lt_overflowBound hk) _ hk (inUnits_eq_mul _) (Nat.mul_one _).symm

/-- Integers of a magnitude below 2^53 need no rounding. -/
theorem fval_f64Int : fval (f64Int k) = inUnits 1 * k := by
  rw [fval_eq, fsign_f64Int, fmag_f64Int hk, ← signed_inUnits]
  simp only [decide_eq_true_eq]

end

/-- A sum of integers below 2^53 in magnitude is computed on their exact values; a sum of 0 is +0.0. -/
theorem fadd_f64Int {j k : Int} (hj : j.natAbs < 2 ^ 53) (hk : k.natAbs < 2 ^ 53) :
    fadd (f64Int j) (f64Int k) = f64Int (j + k) := by
  have hunit : (0 : Int) < inUnits 1 := Int.natCast_pos.2 (inUnits_pos Nat.one_pos)
  have hsum : fval (f64Int j) + fval (f64Int k) = inUnits 1 * (j + k) := by
    rw [fval_f64Int hj, fval_f64Int hk, Int.mul_add]
  rw [fadd_of_finite (finite_f64Int hj) (finite_f64Int hk)]
  by_cases h0 : j + k = 0
  · have hsign : (decide (j < 0) && decide (k < 0)) = false := by simp; omega
    rw [addFinite_zero (by rw [hsum, h0, Int.mul_zero]), fsign_f64Int, fsign_f64Int, hsign, h0, f64Int_eq,
      Int.natAbs_zero, inUnits_zero, ← fpack_roundMag_zero false 1, decide_eq_false (lt_irrefl 0)]
  · have hneg : inUnits 1 * (j + k) < 0 ↔ j + k < 0 := by
      rw [← Int.mul_zero (inUnits 1), Int.mul_lt_mul_left hunit, Int.mul_zero]
    have hmag : (inUnits 1 * (j + k) : Int).natAbs = inUnits (j + k).natAbs := by
      rw [Int.natAbs_mul, Int.natAbs_natCast, ← inUnits_mul, Nat.one_mul]
    rw [addFinite_nonzero (by rw [hsum]; exact mul_ne_zero hunit.ne' h0), hsum, f64Int_eq, hmag]
    simp only [hneg]

/-- An exact quotient of integers is computed exactly. -/
theorem fdiv_f64Int_mul {m : Nat} {k : Int} (hm : 0 < m) (hm53 : m < 2 ^ 53) (hmk : (m * k).natAbs < 2 ^ 53) :
    fdiv (f64Int (m * k)) (f64 m) = f64Int k := by
  have hneg : (m * k : Int) < 0 ↔ k < 0 := by
    rw [← Int.mul_zero m, Int.mul_lt_mul_left (Int.natCast_pos.2 hm), Int.mul_zero]
  have hfm : fmag (f64 m) = 1 * inUnits m := by
    rw [← natAbs_fval, fval_f64 hm53, Int.natAbs_natCast, Nat.one_mul]
  have hratio : inUnits (m * k : Int).natAbs * 2 ^ 1074 = inUnits k.natAbs * inUnits m := by
    rw [Int.natAbs_mul, Int.natAbs_natCast, Nat.mul_comm m, inUnits_mul, Nat.mul_assoc, inUnits_eq_mul m]
  have hf0 : fval (f64 m) ≠ 0 := by
    rw [fval_f64 hm53]
    exact Int.natCast_ne_zero.2 (inUnits_pos hm).ne'
  rw [fdiv_of_finite (finite_f64Int hmk) (finite_f64 hm53) hf0, fmag_f64Int hmk, hratio, hfm,
    roundMag_mul_right (inUnits_pos hm), fsign_f64Int, fsign_f64, f64Int_eq, Bool.bne_false]
  simp only [hneg]

/-! ## Sums and means of equal values -/

theorem fPosZero_eq : fPosZero = f64Int 0 := by decide +kernel

theorem fPosOne_eq : fPosOne = f64Int 1 := by decide +kernel

theorem fNegOne_eq : fNegOne = f64Int (-1) := by decide +kernel

/-- m times the integer k, as long as the total stays exact. -/
theorem sumf_replicate_f64Int {m : Nat} {k : Int} (h : (m * k).natAbs < 2 ^ 53) (hk : k.natAbs < 2 ^ 53) :
    sumf (List.replicate m (f64Int k)) = f64Int (m * k) := by
  induction m with
  | zero => rw [List.replicate_zero, sumf_nil, Nat.cast_zero, Int.zero_mul, fPosZero_eq]
  | succ m ih =>
    have hm : (m * k).natAbs < 2 ^ 53 := by
      refine Nat.lt_of_le_of_lt ?_ h
      rw [Int.natAbs_mul, Int.natAbs_mul]
      exact Nat.mul_le_mul_right _ (by omega)
    rw [List.replicate_succ', sumf_append_singleton, ih hm, fadd_f64Int hm hk, Nat.cast_succ, Int.add_mul, Int.one_mul]

/-- The mean of m equal integers is that integer, as long as their total stays exact (43_line_coding.md R193). -/
theorem meanf_replicate_f64Int {m : Nat} {k : Int} (hm : 0 < m) (hm53 : m < 2 ^ 53) (h : (m * k).natAbs < 2 ^ 53) :
    meanf (List.replicate m (f64Int k)) = f64Int k := by
  have hk : k.natAbs < 2 ^ 53 := by
    refine Nat.lt_of_le_of_lt ?_ h
    rw [Int.natAbs_mul, Int.natAbs_natCast]
    exact Nat.le_mul_of_pos_left _ hm
  rw [meanf, sumf_replicate_f64Int h hk, List.length_replicate, fdiv_f64Int_mul hm hm53 h]

/-- The mean of m equal line-code levels is that level (43_line_coding.md R193). -/
theorem meanf_replicate_level {m : Nat} (hm : 0 < m) (hm53 : m < 2 ^ 53) {x : F64}
    (hx : x ∈ [fPosZero, fPosOne, fNegOne]) : meanf (List.replicate m x) = x := by
  obtain ⟨k, hk, rfl⟩ : ∃ k : Int, k.natAbs ≤ 1 ∧ x = f64Int k := by
    simp only [List.mem_cons, List.not_mem_nil, or_false] at hx
    rcases hx with rfl | rfl | rfl
    · exact ⟨0, by decide, fPosZero_eq⟩
    · exact ⟨1, by decide, fPosOne_eq⟩
    · exact ⟨-1, by decide, fNegOne_eq⟩
  refine meanf_replicate_f64Int hm hm53 (Nat.lt_of_le_of_lt ?_ hm53)
  rw [Int.natAbs_mul, Int.natAbs_natCast]
  exact (Nat.mul_le_mul_left m hk).trans_eq (Nat.mul_one m)

end Sys2Proof.Machine
end

section
/-! The LINECODE commands: the samples of each code by index, the decisions of each decoder, what the six commands end
with, the exact round trips, and the unknown selectors of LINECODE and PASSBAND (43_line_coding.md R190 to R204;
44_passband.md R224). -/

namespace Sys2Proof.Machine

/-! ## Samples by index (43_line_coding.md R190) -/

/-- Sample q of a signal that gives n samples to each bit is sample q mod n of bit q / n. -/
theorem flatMap_eq_map_range {n : Nat} (hn : 0 < n) {block : Bit → List F64} {sample : Bit → Nat → F64}
    (hblock : ∀ b, block b = (List.range n).map (sample b)) (bt : List Bit) :
    bt.flatMap block
      = (List.range (bt.length * n)).map fun q => sample (bt.getD (q / n) false) (q % n) := by
  induction bt with
  | nil => rw [List.length_nil, Nat.zero_mul]; rfl
  | cons b bt ih =>
    rw [List.flatMap_cons, ih, hblock, List.length_cons, Nat.succ_mul, Nat.add_comm, map_range_add]
    congr 1
    · refine List.map_congr_left fun r hr => ?_
      have hrn := List.mem_range.1 hr
      rw [Nat.div_eq_of_lt hrn, Nat.mod_eq_of_lt hrn, List.getD_cons_zero]
    · simp only [Nat.add_div_left _ hn, Nat.add_mod_left, List.getD_cons_succ]

theorem replicate_eq_map_range (n : Nat) (x : F64) : List.replicate n x = (List.range n).map fun _ => x := by
  rw [List.map_const', List.length_range]

/-- The samples of an NRZ-Polar signal (43_line_coding.md R191). -/
theorem nrzEncode_eq_map_range {n : Nat} (hn : 0 < n) (bt : List Bit) :
    nrzEncode n bt
      = (List.range (bt.length * n)).map fun q => if bt.getD (q / n) false then fPosOne else fNegOne :=
  flatMap_eq_map_range hn (sample := fun b _ => if b then fPosOne else fNegOne)
    (fun _ => replicate_eq_map_range n _) bt

/-- An interval of n samples cut after the first h of them (43_line_coding.md R194). -/
theorem replicate_append_eq_map_range {h n : Nat} (hle : h ≤ n) (x y : F64) :
    List.replicate h x ++ List.replicate (n - h) y = (List.range n).map fun r => if r < h then x else y := by
  obtain ⟨k, rfl⟩ := Nat.exists_eq_add_of_le hle
  rw [map_range_add, Nat.add_sub_cancel_left, replicate_eq_map_range, replicate_eq_map_range]
  congr 1
  · exact List.map_congr_left fun r hr => (if_pos (List.mem_range.1 hr)).symm
  · simp

/-- The samples of one bit of a Manchester signal, by their two halves (43_line_coding.md R195). -/
def manBlock (n : Nat) (b : Bit) : List F64 :=
  List.replicate (n / 2) (if b then fPosOne else fNegOne)
    ++ List.replicate (n - n / 2) (if b then fNegOne else fPosOne)

theorem manEncode_eq_flatMap (n : Nat) (bt : List Bit) : manEncode n bt = bt.flatMap (manBlock n) :=
  congrArg bt.flatMap (funext fun b => by cases b <;> rfl)

/-- Sample r of a Manchester interval: the level of the bit in the first half, the other level in the second. -/
theorem manBlock_eq_map_range (n : Nat) (b : Bit) :
    manBlock n b = (List.range n).map fun r => if b = decide (r < n / 2) then fPosOne else fNegOne := by
  rw [manBlock, replicate_append_eq_map_range (Nat.div_le_self n 2)]
  cases b with
  | true => simp only [true_eq_decide_iff, if_true]
  | false => simp only [false_eq_decide_iff, ite_not, Bool.false_eq_true, if_false]

/-- The samples of a Manchester signal (43_line_coding.md R195). -/
theorem manEncode_eq_map_range {n : Nat} (hn : 0 < n) (bt : List Bit) :
    manEncode n bt = (List.range (bt.length * n)).map fun q =>
      if bt.getD (q / n) false = decide (q % n < n / 2) then fPosOne else fNegOne :=
  (manEncode_eq_flatMap n bt).trans (flatMap_eq_map_range hn (manBlock_eq_map_range n) bt)

@[simp] theorem negf_negf (x : F64) : negf (negf x) = x := by
  rw [negf, negf, BitVec.xor_assoc, BitVec.xor_self, BitVec.xor_zero]

/-- The samples of a Bipolar-AMI signal from polarity accumulator `last` on: the first, third, ... 1 bit is a pulse of
the other polarity, the second, fourth, ... one of polarity `last` (43_line_coding.md R200, R201). -/
theorem amiEncodeFrom_eq_map_range {n : Nat} (hn : 0 < n) (last : F64) (bt : List Bit) :
    amiEncodeFrom n last bt = (List.range (bt.length * n)).map fun q =>
      if bt.getD (q / n) false then
        if (bt.take (q / n + 1)).count true % 2 = 1 then negf last else last
      else fPosZero := by
  induction bt generalizing last with
  | nil => rw [List.length_nil, Nat.zero_mul]; rfl
  | cons b bt ih =>
    have hfirst (f : Nat → F64) : (List.range n).map (fun q => f (q / n)) = List.replicate n (f 0) := by
      rw [replicate_eq_map_range]
      exact List.map_congr_left fun q hq => by rw [Nat.div_eq_of_lt (List.mem_range.1 hq)]
    rw [List.length_cons, Nat.succ_mul, Nat.add_comm, map_range_add, hfirst fun j =>
      if (b :: bt).getD j false then
        if ((b :: bt).take (j + 1)).count true % 2 = 1 then negf last else last
      else fPosZero]
    simp only [Nat.add_div_left _ hn]
    cases b with
    | true =>
      rw [amiEncodeFrom, ih]
      congr 1
      have hflip (c : Nat) : (c + 1) % 2 = 1 ↔ ¬ c % 2 = 1 := by omega
      simp only [List.getD_cons_succ, List.take_succ_cons, List.count_cons_self, negf_negf, hflip, ite_not]
    | false =>
      rw [amiEncodeFrom, ih]
      simp

theorem negf_fPosOne : negf fPosOne = fNegOne := rfl

theorem negf_fNegOne : negf fNegOne = fPosOne := rfl

/-- The samples of a Bipolar-AMI signal: the first, third, ... 1 bit is a positive pulse (43_line_coding.md R201). -/
theorem amiEncode_eq_map_range {n : Nat} (hn : 0 < n) (bt : List Bit) :
    amiEncode n bt = (List.range (bt.length * n)).map fun q =>
      if bt.getD (q / n) false then
        if (bt.take (q / n + 1)).count true % 2 = 1 then fPosOne else fNegOne
      else fPosZero := by
  rw [amiEncode, amiEncodeFrom_eq_map_range hn, negf_fNegOne]

/-! ## Decisions by index -/

/-- The mean of `len` samples that are there, written out (43_line_coding.md R193). -/
theorem meanf_drop_take {xs : List F64} {start len : Nat} (h : start + len ≤ xs.length) :
    meanf ((xs.drop start).take len) = fdiv (((xs.drop start).take len).foldl fadd 0#64) (f64 len) := by
  have hlen : ((xs.drop start).take len).length = len := by
    rw [List.length_take, List.length_drop]
    omega
  rw [meanf, hlen, sumf, fPosZero]

/-- A whole block lies inside the sequence (43_line_coding.md R190). -/
theorem block_end_le {n m j : Nat} (hj : j ∈ List.range (m / n)) : j * n + n ≤ m := by
  have hle : (j + 1) * n ≤ m := (Nat.mul_le_mul_right n (List.mem_range.1 hj)).trans (Nat.div_mul_le_self m n)
  rwa [Nat.succ_mul] at hle

section
variable (n : Nat) (xs : List F64)

/-- The bits of an NRZ-Polar signal (43_line_coding.md R192). -/
theorem nrzDecode_eq_map_range : nrzDecode n xs = (List.range (xs.length / n)).map fun j =>
    fgt (fdiv (((xs.drop (j * n)).take n).foldl fadd 0#64) (f64 n)) 0#64 := by
  rw [nrzDecode, chunks, List.map_map]
  refine List.map_congr_left fun j hj => ?_
  rw [Function.comp_apply, meanPositive, meanf_drop_take (block_end_le hj), fPosZero]

/-- The bits of a Manchester signal (43_line_coding.md R196). -/
theorem manDecode_eq_map_range : manDecode n xs = (List.range (xs.length / n)).map fun j =>
    fgt (fdiv (((xs.drop (j * n)).take (n / 2)).foldl fadd 0#64) (f64 (n / 2))) 0#64 := by
  rw [manDecode, chunks, List.map_map]
  refine List.map_congr_left fun j hj => ?_
  have hend := block_end_le hj
  rw [Function.comp_apply, List.take_take, Nat.min_eq_left (Nat.div_le_self n 2), meanPositive,
    meanf_drop_take (by omega), fPosZero]

/-- The bits of a Bipolar-AMI signal (43_line_coding.md R202). -/
theorem amiDecode_eq_map_range : amiDecode n xs = (List.range (xs.length / n)).map fun j =>
    !flt (fdiv (((xs.drop (j * n)).take n).foldl fadd 0#64) (f64 n) &&& 0x7FFFFFFFFFFFFFFF#64)
      0x3FB999999999999A#64 := by
  rw [amiDecode, chunks, List.map_map]
  refine List.map_congr_left fun j hj => ?_
  rw [Function.comp_apply, meanf_drop_take (block_end_le hj), absf, amiThreshold]

end

/-! ## The commands -/

/-- The rule of a line code that needs at least `least` samples for each bit (60_exceptions.md R253 step 5). -/
def lineRule {α β : Type} (least : Nat) (code : Nat → List α → List β) : Cfg → List α → Except ErrCode (List β) :=
  fun cfg xs => if cfg.spb.toNat < least then .error .invalidConfig else .ok (code cfg.spb.toNat xs)

/-- The six LINECODE commands, by their rules (43_line_coding.md R191 to R202). -/
theorem exec_lineCodes (s : State) :
    exec .nrzEnc s = runCommand readBit writeSample (lineRule 1 nrzEncode) s
      ∧ exec .manEnc s = runCommand readBit writeSample (lineRule 2 manEncode) s
      ∧ exec .amiEnc s = runCommand readBit writeSample (lineRule 1 amiEncode) s
      ∧ exec .nrzDec s = runCommand readSample writeBit (lineRule 1 nrzDecode) s
      ∧ exec .manDec s = runCommand readSample writeBit (lineRule 2 manDecode) s
      ∧ exec .amiDec s = runCommand readSample writeBit (lineRule 1 amiDecode) s :=
  ⟨rfl, rfl, rfl, rfl, rfl, rfl⟩

/-- How a line code's command ends, `o`: with InvalidConfig below its least number of samples for each bit, and else
in the state `result` where the `size` elements of its output fit OUT, and with BufferOverflow where they do not
(60_exceptions.md R253). -/
structure EndsAsLineCode (s : State) (least size : Nat) (result : State) (o : Host.Outcome State Fault Refusal) :
    Prop where
  invalid : s.operands.cfg.spb.toNat < least → o = .next (s.endedWith 8#4)
  output : least ≤ s.operands.cfg.spb.toNat → size ≤ s.outCap → o = .next result
  overflow : least ≤ s.operands.cfg.spb.toNat → s.outCap < size → o = .next (s.endedWith 11#4)

/-- A line code's command on an input for which its rule gives `size` elements. -/
theorem runCommand_lineRule {α β : Type} (read : Word → α) (write : β → Word) {least : Nat}
    {code : Nat → List α → List β} {s : State} {es : List Word} (h : s.HasInput es) {size : Nat} {elem : Nat → β}
    (hcode : least ≤ s.operands.cfg.spb.toNat →
      code s.operands.cfg.spb.toNat (es.map read) = (List.range size).map elem) :
    EndsAsLineCode s least size (s.finishedWith (((List.range size).map elem).map write))
      (runCommand read write (lineRule least code) s) := by
  have hrun (hle : least ≤ s.operands.cfg.spb.toNat) :=
    runCommand_of_output read write (lineRule least code) h ((if_neg (Nat.not_lt.2 hle)).trans (congrArg _ (hcode hle)))
  simp only [List.length_map, List.length_range] at hrun
  exact ⟨fun hlt => runCommand_error read write (lineRule least code) h (if_pos hlt), fun hle => (hrun hle).1,
    fun hle => (hrun hle).2⟩

section
variable {s : State} {least size : Nat}

/-- A line code's transmit command, from bits to samples. -/
theorem runCommand_lineRule_transmit {bt : List Bit} (h : s.HasBits bt) {code : Nat → List Bit → List F64}
    {sample : Nat → F64} (hcode : least ≤ s.operands.cfg.spb.toNat →
      code s.operands.cfg.spb.toNat bt = (List.range size).map sample) :
    EndsAsLineCode s least size (s.finishedSamples ((List.range size).map sample))
      (runCommand readBit writeSample (lineRule least code) s) := by
  obtain ⟨es, hes, rfl⟩ := h
  have hwrite : ((List.range size).map sample).map writeSample = (List.range size).map sample := List.map_id _
  rw [State.finishedSamples, ← hwrite]
  exact runCommand_lineRule readBit writeSample hes hcode

/-- A line code's receive command, from samples to bits. -/
theorem runCommand_lineRule_receive {xs : List F64} (h : s.HasSamples xs) {code : Nat → List F64 → List Bit}
    {bit : Nat → Bit} (hcode : least ≤ s.operands.cfg.spb.toNat →
      code s.operands.cfg.spb.toNat xs = (List.range size).map bit) :
    EndsAsLineCode s least size (s.finishedBits ((List.range size).map bit))
      (runCommand readSample writeBit (lineRule least code) s) := by
  have hread : xs.map readSample = xs := List.map_id xs
  rw [← hread] at hcode
  exact runCommand_lineRule readSample writeBit h hcode

end

/-- Settles O49: each transmit command by `runCommand_lineRule_transmit`, its samples by index. -/
theorem lineCodesModulate : Obligations.LineCodesModulate := by
  refine ⟨decodeOfEncodeIsTheCommand .nrzEnc rfl, decodeOfEncodeIsTheCommand .manEnc rfl,
    decodeOfEncodeIsTheCommand .amiEnc rfl, fun s bt h => ?_⟩
  obtain ⟨hexecNrz, hexecMan, hexecAmi, -⟩ := exec_lineCodes s
  rw [hexecNrz, hexecMan, hexecAmi]
  have nrz := runCommand_lineRule_transmit (least := 1) h (nrzEncode_eq_map_range · bt)
  have man := runCommand_lineRule_transmit (least := 2) h fun hn => manEncode_eq_map_range (Nat.zero_lt_of_lt hn) bt
  have ami := runCommand_lineRule_transmit (least := 1) h (amiEncode_eq_map_range · bt)
  exact ⟨fun hn => ⟨nrz.invalid hn, ami.invalid hn⟩, man.invalid,
    fun hn hfits => ⟨nrz.output hn hfits, ami.output hn hfits⟩, man.output,
    fun hn hlong => ⟨nrz.overflow hn hlong, ami.overflow hn hlong⟩, man.overflow⟩

/-- Settles O50: each receive command by `runCommand_lineRule_receive`, its decisions by index. -/
theorem lineCodesDemodulate : Obligations.LineCodesDemodulate := by
  refine ⟨decodeOfEncodeIsTheCommand .nrzDec rfl, decodeOfEncodeIsTheCommand .manDec rfl,
    decodeOfEncodeIsTheCommand .amiDec rfl, fun s xs h => ?_⟩
  obtain ⟨-, -, -, hexecNrz, hexecMan, hexecAmi⟩ := exec_lineCodes s
  rw [hexecNrz, hexecMan, hexecAmi]
  have nrz := runCommand_lineRule_receive (least := 1) h fun _ => nrzDecode_eq_map_range _ xs
  have man := runCommand_lineRule_receive (least := 2) h fun _ => manDecode_eq_map_range _ xs
  have ami := runCommand_lineRule_receive (least := 1) h fun _ => amiDecode_eq_map_range _ xs
  exact ⟨fun hn => ⟨nrz.invalid hn, ami.invalid hn⟩, man.invalid,
    fun hn hfits => ⟨nrz.output hn hfits, ami.output hn hfits⟩, man.output,
    fun hn hlong => ⟨nrz.overflow hn hlong, ami.overflow hn hlong⟩, man.overflow⟩

/-! ## Round trips (43_line_coding.md R204) -/

theorem chunks_nil {α : Type} (n : Nat) : chunks n ([] : List α) = [] := by
  rw [chunks, List.length_nil, Nat.zero_div]
  rfl

/-- A signal of n samples for each bit is cut into the blocks of its bits. -/
theorem chunks_flatMap {n : Nat} (hn : 0 < n) {block : Bit → List F64} (hlen : ∀ b, (block b).length = n)
    (bt : List Bit) : chunks n (bt.flatMap block) = bt.map block := by
  induction bt with
  | nil => exact chunks_nil n
  | cons b bt ih => rw [List.flatMap_cons, chunks_append hn (hlen b), ih, List.map_cons]

/-- The first block decides the first bit (43_line_coding.md R202). -/
theorem amiDecode_append {n : Nat} (hn : 0 < n) {blk : List F64} (h : blk.length = n) (rest : List F64) :
    amiDecode n (blk ++ rest) = (!flt (absf (meanf blk)) amiThreshold) :: amiDecode n rest := by
  rw [amiDecode, chunks_append hn h, List.map_cons, amiDecode]

section
variable {n : Nat} (hn : 0 < n) (hn53 : n < 2 ^ 53)
include hn hn53

/-- A run of one polar level decides for its bit (43_line_coding.md R193). -/
theorem meanPositive_replicate (b : Bit) : meanPositive (List.replicate n (if b then fPosOne else fNegOne)) = b := by
  rw [meanPositive, meanf_replicate_level hn hn53 (by cases b <;> decide)]
  cases b <;> decide +kernel

theorem nrzDecode_nrzEncode (bt : List Bit) : nrzDecode n (nrzEncode n bt) = bt := by
  rw [nrzDecode, nrzEncode, chunks_flatMap hn fun b => List.length_replicate, List.map_map]
  exact (List.map_congr_left fun b _ => meanPositive_replicate hn hn53 b).trans (List.map_id bt)

/-- A pulse of either polarity decides for 1 (43_line_coding.md R202). -/
theorem amiDecision_pulse {x : F64} (hx : x = fPosOne ∨ x = fNegOne) :
    (!flt (absf (meanf (List.replicate n x))) amiThreshold) = true := by
  rcases hx with rfl | rfl
  · rw [meanf_replicate_level hn hn53 (by decide)]
    decide +kernel
  · rw [meanf_replicate_level hn hn53 (by decide)]
    decide +kernel

/-- An interval without a pulse decides for 0 (43_line_coding.md R202). -/
theorem amiDecision_zero : (!flt (absf (meanf (List.replicate n fPosZero))) amiThreshold) = false := by
  rw [meanf_replicate_level hn hn53 (by decide)]
  decide +kernel

/-- The polarity accumulator starts at a pulse's level and keeps one, so each interval is decided by its own bit
(43_line_coding.md R200, R202). -/
theorem amiDecode_amiEncodeFrom {last : F64} (hlast : last = fPosOne ∨ last = fNegOne) (bt : List Bit) :
    amiDecode n (amiEncodeFrom n last bt) = bt := by
  induction bt generalizing last with
  | nil => rw [amiEncodeFrom, amiDecode, chunks_nil, List.map_nil]
  | cons b bt ih =>
    cases b with
    | true =>
      have hpulse : negf last = fPosOne ∨ negf last = fNegOne := by
        rcases hlast with rfl | rfl
        · exact .inr negf_fPosOne
        · exact .inl negf_fNegOne
      rw [amiEncodeFrom, amiDecode_append hn List.length_replicate, amiDecision_pulse hn hn53 hpulse, ih hpulse]
    | false =>
      rw [amiEncodeFrom, amiDecode_append hn List.length_replicate, amiDecision_zero hn hn53, ih hlast]

end

/-- The first half of a Manchester interval alone decides its bit (43_line_coding.md R196). -/
theorem manDecode_manEncode {n : Nat} (hn : 2 ≤ n) (hn53 : n < 2 ^ 53) (bt : List Bit) :
    manDecode n (manEncode n bt) = bt := by
  have hhalf : n / 2 ≤ n := Nat.div_le_self n 2
  have hlen (b : Bit) : (manBlock n b).length = n := by
    rw [manBlock, List.length_append, List.length_replicate, List.length_replicate, Nat.add_sub_cancel' hhalf]
  have hdecided (b : Bit) : meanPositive ((manBlock n b).take (n / 2)) = b := by
    rw [manBlock, List.take_left' List.length_replicate,
      meanPositive_replicate (Nat.div_pos hn Nat.two_pos) (hhalf.trans_lt hn53)]
  rw [manDecode, manEncode_eq_flatMap, chunks_flatMap (Nat.zero_lt_of_lt hn) hlen, List.map_map]
  exact (List.map_congr_left fun b _ => hdecided b).trans (List.map_id bt)

/-- Settles O51: one level through each half or whole interval, whose mean `meanf_replicate_level` gives exactly. -/
theorem lineCodesRoundTrip : Obligations.LineCodesRoundTrip := by
  intro n bt hn hn32
  have hn53 : n < 2 ^ 53 := hn32.trans (by decide)
  exact ⟨nrzDecode_nrzEncode hn hn53 bt, amiDecode_amiEncodeFrom hn hn53 (.inr rfl) bt,
    fun htwo => manDecode_manEncode htwo hn53 bt⟩

/-! ## Unknown selectors -/

/-- Every free LINECODE selector is LC_UNKNOWN (30_encoding.md R78). -/
theorem decode_lcUnknown {v : BitVec 4} (hv : 3 ≤ v.toNat) (d : Dir) :
    decode (3#4 ++ v ++ BitVec.setWidth 8 d.bit) = .lcUnknown v d := by
  rw [append_lowByte_eq_cmdWordOf]
  exact decodeOfEncodeIsTheCommand (.lcUnknown v d) (decide_eq_true hv)

/-- Every free PASSBAND selector is PB_UNKNOWN (30_encoding.md R79). -/
theorem decode_pbUnknown {v : BitVec 4} (hv : 4 ≤ v.toNat) (d : Dir) :
    decode (4#4 ++ v ++ BitVec.setWidth 8 d.bit) = .pbUnknown v d := by
  rw [append_lowByte_eq_cmdWordOf]
  exact decodeOfEncodeIsTheCommand (.pbUnknown v d) (decide_eq_true hv)

/-- Settles O52: the decoder by `decode_lcUnknown` and `decode_pbUnknown`; both commands are the error's completion. -/
theorem unknownSelectorsEndWithUnknownStrategy : Obligations.UnknownSelectorsEndWithUnknownStrategy :=
  ⟨fun _ hv => ⟨decode_lcUnknown hv .transmit, decode_lcUnknown hv .receive⟩,
    fun _ hv => ⟨decode_pbUnknown hv .transmit, decode_pbUnknown hv .receive⟩,
    fun s _ _ => ⟨congrArg Host.Outcome.next (State.completeErr_eq_endedWith s .unknownStrategy),
      congrArg Host.Outcome.next (State.completeErr_eq_endedWith s .unknownStrategy)⟩⟩

end Sys2Proof.Machine
end

section
/-! PASSBAND waveforms by index: the samples of each scheme, the correlations of its blocks with their references, and
the symbol a receiver keeps (44_passband.md R209 to R223). -/

namespace Sys2Proof.Machine

/-! ## Samples by index -/

/-- Sample q of m intervals of n samples is sample q mod n of interval q / n (44_passband.md R209). -/
theorem flatMap_range_eq_map_range {n : Nat} (hn : 0 < n) (m : Nat) (sample : Nat → Nat → F64) :
    ((List.range m).flatMap fun i => (List.range n).map (sample i))
      = (List.range (m * n)).map fun q => sample (q / n) (q % n) := by
  induction m with
  | zero => rw [Nat.zero_mul]; rfl
  | succ m ih =>
    rw [List.range_succ, List.flatMap_append, ih, List.flatMap_singleton, Nat.succ_mul, map_range_add]
    congr 1
    refine List.map_congr_left fun r hr => ?_
    have hrn := List.mem_range.1 hr
    rw [Nat.mul_comm, Nat.mul_add_div hn, Nat.div_eq_of_lt hrn, Nat.add_zero, Nat.mul_add_mod, Nat.mod_eq_of_lt hrn]

/-- The samples of an ASK signal (44_passband.md R214). -/
theorem askModulate_eq_map_range {n : Nat} (hn : 0 < n) (sin : F64 → F64) (fc : Nat) (a0 a1 : F64) (bt : List Bit) :
    askModulate sin n fc a0 a1 bt = (List.range (bt.length * n)).map fun q =>
      fmul (if bt.getD (q / n) false then a1 else a0) (sin (carrierArg n fc (q % n))) :=
  flatMap_eq_map_range hn (sample := fun b r => fmul (if b then a1 else a0) (sin (carrierArg n fc r)))
    (fun _ => List.map_map) bt

/-- The samples of an FSK signal (44_passband.md R216). -/
theorem fskModulate_eq_map_range {n : Nat} (hn : 0 < n) (sin : F64 → F64) (f0 f1 : Nat) (bt : List Bit) :
    fskModulate sin n f0 f1 bt = (List.range (bt.length * n)).map fun q =>
      sin (carrierArg n (if bt.getD (q / n) false then f1 else f0) (q % n)) :=
  flatMap_eq_map_range hn (sample := fun b r => sin (carrierArg n (if b then f1 else f0) r)) (fun _ => rfl) bt

/-! ## Symbols and their tables -/

/-- The number that the two bits from index i on stand for, zeros past the end of the sequence. -/
def bitPair (bt : List Bit) (i : Nat) : Nat := 2 * (bt.getD i false).toNat + (bt.getD (i + 1) false).toNat

theorem bitPair_lt (bt : List Bit) (i : Nat) : bitPair bt i < 4 := by
  have hhigh := Bool.toNat_le (bt.getD i false)
  have hlow := Bool.toNat_le (bt.getD (i + 1) false)
  rw [bitPair]
  omega

theorem bitsToNat_two (b1 b0 : Bit) : bitsToNat [b1, b0] = 2 * b1.toNat + b0.toNat := by
  simp only [bitsToNat, List.foldl_cons, List.foldl_nil]
  omega

theorem bitsToNat_four (b3 b2 b1 b0 : Bit) :
    bitsToNat [b3, b2, b1, b0] = 4 * (2 * b3.toNat + b2.toNat) + (2 * b1.toNat + b0.toNat) := by
  simp only [bitsToNat, List.foldl_cons, List.foldl_nil]
  omega

/-- The symbols of two bits (44_passband.md R218). -/
theorem symbols_two (bt : List Bit) :
    symbols 2 bt = (List.range ((bt.length + 1) / 2)).map fun i => bitPair bt (2 * i) := by
  rw [symbols, chunks_padBits (by decide), List.map_map]
  refine List.map_congr_left fun i _ => ?_
  rw [Function.comp_apply, Nat.mul_comm i 2]
  exact bitsToNat_two ..

/-- The symbols of four bits (44_passband.md R221). -/
theorem symbols_four (bt : List Bit) : symbols 4 bt
    = (List.range ((bt.length + 3) / 4)).map fun i => 4 * bitPair bt (4 * i) + bitPair bt (4 * i + 2) := by
  rw [symbols, chunks_padBits (by decide), List.map_map]
  refine List.map_congr_left fun i _ => ?_
  rw [Function.comp_apply, Nat.mul_comm i 4]
  exact bitsToNat_four ..

/-- The phase table of R39 as a list (10_state.md R39). -/
theorem qpskPhase_eq_getD {k : Nat} (hk : k < 4) : qpskPhase k = [45, 135, 315, 225].getD k 0 := by
  interval_cases k <;> rfl

/-- The level of a bit pair as its binary64 pattern (10_state.md R40). -/
def qamLevel (k : Nat) : F64 :=
  [0xC008000000000000#64, 0xBFF0000000000000#64, 0x4008000000000000#64, 0x3FF0000000000000#64].getD k 0#64

theorem f64Int_grayLevel {k : Nat} (hk : k < 4) : f64Int (grayLevel k) = qamLevel k := by
  revert k
  decide +kernel

/-- I of a symbol is the level of its first bit pair (10_state.md R40). -/
theorem f64Int_qamI {high low : Nat} (hhigh : high < 4) (hlow : low < 4) :
    f64Int (qamI (4 * high + low)) = qamLevel high := by
  rw [qamI, Nat.mul_add_div (by decide), Nat.div_eq_of_lt hlow, Nat.add_zero, f64Int_grayLevel hhigh]

/-- Q of a symbol is the level of its last bit pair (10_state.md R40). -/
theorem f64Int_qamQ {high low : Nat} (hlow : low < 4) : f64Int (qamQ (4 * high + low)) = qamLevel low := by
  rw [qamQ, Nat.mul_add_mod, Nat.mod_eq_of_lt hlow, f64Int_grayLevel hlow]

/-! ## Samples of symbols by index -/

/-- The samples of a QPSK signal (44_passband.md R219). -/
theorem qpskModulate_eq_map_range {n : Nat} (hn : 0 < n) (sin : F64 → F64) (fc : Nat) (bt : List Bit) :
    qpskModulate sin n fc bt = (List.range ((bt.length + 1) / 2 * n)).map fun q =>
      sin (fadd (carrierArg n fc (q % n)) (phaseOf ([45, 135, 315, 225].getD (bitPair bt (2 * (q / n))) 0))) := by
  rw [qpskModulate, symbols_two, List.flatMap_map,
    ← flatMap_range_eq_map_range hn _ fun i r =>
      sin (fadd (carrierArg n fc r) (phaseOf ([45, 135, 315, 225].getD (bitPair bt (2 * i)) 0)))]
  simp only [qpskWave, qpskPhase_eq_getD (bitPair_lt bt _)]

/-- The samples of a 16-QAM signal (44_passband.md R222). -/
theorem qamModulate_eq_map_range {n : Nat} (hn : 0 < n) (sin cos : F64 → F64) (fc : Nat) (bt : List Bit) :
    qamModulate sin cos n fc bt = (List.range ((bt.length + 3) / 4 * n)).map fun q =>
      fsub (fmul (qamLevel (bitPair bt (4 * (q / n)))) (cos (carrierArg n fc (q % n))))
        (fmul (qamLevel (bitPair bt (4 * (q / n) + 2))) (sin (carrierArg n fc (q % n)))) := by
  rw [qamModulate, symbols_four, List.flatMap_map,
    ← flatMap_range_eq_map_range hn _ fun i r =>
      fsub (fmul (qamLevel (bitPair bt (4 * i))) (cos (carrierArg n fc r)))
        (fmul (qamLevel (bitPair bt (4 * i + 2))) (sin (carrierArg n fc r)))]
  simp only [qamWave, f64Int_qamI (bitPair_lt bt _) (bitPair_lt bt _), f64Int_qamQ (bitPair_lt bt _)]

/-! ## Blocks and correlations -/

/-- Block j of n samples, by index (44_passband.md R209). -/
def sampleBlock (n : Nat) (xs : List F64) (j : Nat) : List F64 :=
  (List.range n).map fun r => xs.getD (j * n + r) 0#64

theorem chunks_eq_map_sampleBlock (n : Nat) (xs : List F64) :
    chunks n xs = (List.range (xs.length / n)).map (sampleBlock n xs) := by
  refine List.map_congr_left fun j hj => ?_
  have hend := block_end_le hj
  apply List.ext_getElem
  · rw [sampleBlock, List.length_take, List.length_drop, List.length_map, List.length_range]
    omega
  · intro r _ hr
    rw [sampleBlock, List.length_map, List.length_range] at hr
    have hlt : j * n + r < xs.length := by omega
    simp [sampleBlock, List.getElem?_eq_getElem hlt]

/-- The correlation of block j with the reference given by `wave`, summed left to right (44_passband.md R213). -/
def blockCorr (n : Nat) (xs : List F64) (wave : Nat → F64) (j : Nat) : F64 :=
  ((List.range n).map fun r => fmul (xs.getD (j * n + r) 0#64) (wave r)).foldl fadd 0#64

theorem corr_sampleBlock (n : Nat) (xs : List F64) (wave : Nat → F64) (j : Nat) :
    corr (sampleBlock n xs j) ((List.range n).map wave) = blockCorr n xs wave j := by
  rw [corr, sampleBlock, List.zipWith_map, List.zipWith_self]
  rfl

theorem corr_sampleBlock_carrier (n : Nat) (xs : List F64) (wave : F64 → F64) (f j : Nat) :
    corr (sampleBlock n xs j) (carrier wave n f) = blockCorr n xs (fun r => wave (carrierArg n f r)) j :=
  corr_sampleBlock n xs _ j

section
variable (sin cos : F64 → F64) (n fc f0 f1 : Nat) (xs : List F64)

/-- The bits of an ASK signal (44_passband.md R215). -/
theorem askDemodulate_eq_map_range : askDemodulate sin n fc xs = (List.range (xs.length / n)).map fun j =>
    fgt (blockCorr n xs (fun r => sin (carrierArg n fc r)) j) 0#64 := by
  rw [askDemodulate, chunks_eq_map_sampleBlock, List.map_map]
  simp only [Function.comp_def, corr_sampleBlock_carrier, fPosZero]

/-- The bits of an FSK signal (44_passband.md R217). -/
theorem fskDemodulate_eq_map_range : fskDemodulate sin n f0 f1 xs = (List.range (xs.length / n)).map fun j =>
    fgt (blockCorr n xs (fun r => sin (carrierArg n f1 r)) j)
      (blockCorr n xs (fun r => sin (carrierArg n f0 r)) j) := by
  rw [fskDemodulate, chunks_eq_map_sampleBlock, List.map_map]
  simp only [Function.comp_def, corr_sampleBlock_carrier]

end

/-! ## The first symbol of the best score -/

/-- The symbol kept when each of `ks`, in order, replaces the one kept so far if its score is strictly better
(44_passband.md R220, R223). -/
def firstBest (better : F64 → F64 → Bool) (score : Nat → F64) (b : Nat) (ks : List Nat) : Nat :=
  ks.foldl (fun b k => if better (score k) (score b) then k else b) b

/-- Holding the best score beside the symbol keeps the same symbol. -/
theorem foldl_keep_eq_firstBest (better : F64 → F64 → Bool) (score : Nat → F64) (b : Nat) (ks : List Nat) :
    ks.foldl (fun best k => if better (score k) best.2 then (k, score k) else best) (b, score b)
      = (firstBest better score b ks, score (firstBest better score b ks)) := by
  induction ks generalizing b with
  | nil => rfl
  | cons k ks ih =>
    simp only [firstBest, List.foldl_cons] at ih ⊢
    cases better (score k) (score b) with
    | true => exact ih k
    | false => exact ih b

/-- Only the scores of the symbols compared matter. -/
theorem firstBest_congr {better : F64 → F64 → Bool} {score score' : Nat → F64} {b : Nat} {ks : List Nat}
    (h : ∀ k ∈ b :: ks, score k = score' k) : firstBest better score b ks = firstBest better score' b ks := by
  induction ks generalizing b with
  | nil => rfl
  | cons k ks ih =>
    rw [List.forall_mem_cons, List.forall_mem_cons] at h
    obtain ⟨hb, hk, hks⟩ := h
    simp only [firstBest, List.foldl_cons, hb, hk] at ih ⊢
    cases better (score' k) (score' b) with
    | true => exact ih (List.forall_mem_cons.2 ⟨hk, hks⟩)
    | false => exact ih (List.forall_mem_cons.2 ⟨hb, hks⟩)

/-- Comparing the symbol kept with itself changes nothing. -/
theorem firstBest_cons_self (better : F64 → F64 → Bool) (score : Nat → F64) (b : Nat) (ks : List Nat) :
    firstBest better score b (b :: ks) = firstBest better score b ks := by
  rw [firstBest, List.foldl_cons, ite_self, firstBest]

/-! ## Symbol decisions by index -/

/-- Each block gives as many bits as a symbol has (44_passband.md R220, R223). -/
theorem length_flatMap_range (c m : Nat) {symbolBits : Nat → List Bit} (h : ∀ j, (symbolBits j).length = c) :
    ((List.range m).flatMap symbolBits).length = c * m := by
  rw [List.length_flatMap, List.map_congr_left fun j _ => h j, List.map_const', List.length_range, List.sum_replicate,
    smul_eq_mul, Nat.mul_comm]

section
variable (sin cos : F64 → F64) (n fc : Nat) (xs : List F64)

/-- The correlation of block j with QPSK symbol k (44_passband.md R220). -/
def qpskScore (j k : Nat) : F64 :=
  blockCorr n xs (fun r => sin (fadd (carrierArg n fc r) (phaseOf ([45, 135, 315, 225].getD k 0)))) j

/-- The symbol of a QPSK block (44_passband.md R220). -/
theorem qpskDecide_sampleBlock (j : Nat) : qpskDecide sin n fc (sampleBlock n xs j)
    = firstBest fgt (qpskScore sin n fc xs j) 0 [1, 2, 3] := by
  have hscore (k : Nat) (hk : k ∈ [0, 1, 2, 3]) :
      corr (sampleBlock n xs j) (qpskWave sin n fc k) = qpskScore sin n fc xs j k := by
    have hlt : k < 4 := List.mem_range.1 hk
    rw [qpskWave, corr_sampleBlock, qpskPhase_eq_getD hlt, qpskScore]
  rw [← firstBest_congr hscore]
  exact congrArg Prod.fst (foldl_keep_eq_firstBest fgt _ 0 [1, 2, 3])

/-- The bits of a QPSK signal (44_passband.md R220). -/
theorem qpskDemodulate_eq_flatMap_range : qpskDemodulate sin n fc xs = (List.range (xs.length / n)).flatMap fun j =>
    [decide (firstBest fgt (qpskScore sin n fc xs j) 0 [1, 2, 3] / 2 % 2 = 1),
      decide (firstBest fgt (qpskScore sin n fc xs j) 0 [1, 2, 3] % 2 = 1)] := by
  rw [qpskDemodulate, chunks_eq_map_sampleBlock, List.flatMap_map]
  simp only [qpskDecide_sampleBlock, Nat.testBit_eq_decide_div_mod_eq, Nat.pow_zero, Nat.pow_one, Nat.div_one]

/-- The squared distance of an estimate to the point of symbol k, the levels by their patterns (44_passband.md R223). -/
def qamScore (ie qe : F64) (k : Nat) : F64 :=
  fadd (fmul (fsub ie (qamLevel (k / 4))) (fsub ie (qamLevel (k / 4))))
    (fmul (fsub qe (qamLevel (k % 4))) (fsub qe (qamLevel (k % 4))))

/-- The symbol nearest an estimate (44_passband.md R223). -/
theorem qamNearest_eq_firstBest (ie qe : F64) :
    qamNearest ie qe = firstBest flt (qamScore ie qe) 0 (List.range 16) := by
  have hscore (k : Nat) (hk : k ∈ List.range 16) : qamDistance ie qe k = qamScore ie qe k := by
    have hlt : k < 16 := List.mem_range.1 hk
    rw [qamDistance, qamI, qamQ, f64Int_grayLevel (by omega), f64Int_grayLevel (by omega), qamScore]
  have hsymbols : List.range 16 = 0 :: List.range' 1 15 := rfl
  rw [hsymbols] at hscore ⊢
  rw [firstBest_cons_self, ← firstBest_congr hscore]
  exact congrArg Prod.fst (foldl_keep_eq_firstBest flt (qamDistance ie qe) 0 (List.range' 1 15))

/-- The estimate of I or, before its sign is flipped, of Q, from block j (44_passband.md R223). -/
def qamEstimate (wave : F64 → F64) (j : Nat) : F64 :=
  fmul (fdiv (f64 2) (f64 n)) (blockCorr n xs (fun r => wave (carrierArg n fc r)) j)

/-- The symbol of a 16-QAM block (44_passband.md R223). -/
theorem qamDecide_sampleBlock (j : Nat) : qamDecide sin cos n fc (sampleBlock n xs j)
    = firstBest flt (qamScore (qamEstimate n fc xs cos j) (negf (qamEstimate n fc xs sin j))) 0 (List.range 16) := by
  rw [qamDecide, qamNearest_eq_firstBest, qamEstimateI, qamEstimateQ, corr_sampleBlock_carrier,
    corr_sampleBlock_carrier, qamEstimate, qamEstimate]

/-- The bits of a 16-QAM signal (44_passband.md R223). -/
theorem qamDemodulate_eq_flatMap_range :
    qamDemodulate sin cos n fc xs = (List.range (xs.length / n)).flatMap fun j =>
      let best := firstBest flt (qamScore (qamEstimate n fc xs cos j) (negf (qamEstimate n fc xs sin j))) 0
        (List.range 16)
      [best.testBit 3, best.testBit 2, best.testBit 1, best.testBit 0] := by
  rw [qamDemodulate, chunks_eq_map_sampleBlock, List.flatMap_map]
  simp only [qamDecide_sampleBlock]

end

end Sys2Proof.Machine
end

section
/-! The PASSBAND commands: what the eight commands end with (44_passband.md R214 to R223; 60_exceptions.md R253). -/

namespace Sys2Proof.Machine

/-! ## Commands that check their configuration -/

/-- The rule of a command that refuses the configurations `bad` and then always gives an output (60_exceptions.md R253
step 5). -/
def checkedRule {α β : Type} (bad : Cfg → Prop) [DecidablePred bad] (code : Cfg → List α → List β) :
    Cfg → List α → Except ErrCode (List β) :=
  fun cfg xs => if bad cfg then .error .invalidConfig else .ok (code cfg xs)

/-- No samples for an interval, which every PASSBAND command refuses (44_passband.md R214). -/
abbrev Cfg.NoSamples (cfg : Cfg) : Prop := cfg.spb.toNat < 1

/-- What the FSK commands refuse: no samples, or one tone for both bits (44_passband.md R216). -/
abbrev Cfg.NoTones (cfg : Cfg) : Prop := cfg.spb.toNat < 1 ∨ cfg.f0 = cfg.f1

/-- How such a command ends, `o`: with InvalidConfig where it is `bad`, and else in the state `result` where the `size`
elements of its output fit OUT, and with BufferOverflow where they do not (60_exceptions.md R253). -/
structure EndsChecked (s : State) (bad : Prop) (size : Nat) (result : State) (o : Host.Outcome State Fault Refusal) :
    Prop where
  invalid : bad → o = .next (s.endedWith 8#4)
  output : ¬ bad → size ≤ s.outCap → o = .next result
  overflow : ¬ bad → s.outCap < size → o = .next (s.endedWith 11#4)

section
variable {bad : Cfg → Prop} [DecidablePred bad] {i : Instr} {s : State} {size : Nat}

/-- Such a command on an input for which its code gives `out`. -/
theorem runCommand_checkedRule {α β : Type} (read : Word → α) (write : β → Word)
    {code : Cfg → List α → List β} {es : List Word} (h : s.HasInput es) {out : List β}
    (hcode : ¬ bad s.operands.cfg → code s.operands.cfg (es.map read) = out) (hsize : out.length = size) :
    EndsChecked s (bad s.operands.cfg) size (s.finishedWith (out.map write))
      (runCommand read write (checkedRule bad code) s) := by
  subst hsize
  have hrun (hgood : ¬ bad s.operands.cfg) :=
    runCommand_of_output read write (checkedRule bad code) h ((if_neg hgood).trans (congrArg _ (hcode hgood)))
  exact ⟨fun hbad => runCommand_error read write (checkedRule bad code) h (if_pos hbad), fun hgood => (hrun hgood).1,
    fun hgood => (hrun hgood).2⟩

/-- A modulator's command, from bits to samples. -/
theorem exec_checked_transmit {code : Cfg → List Bit → List F64}
    (hexec : exec i s = runCommand readBit writeSample (checkedRule bad code) s) {bt : List Bit} (h : s.HasBits bt)
    {sample : Nat → F64} (hcode : ¬ bad s.operands.cfg → code s.operands.cfg bt = (List.range size).map sample) :
    EndsChecked s (bad s.operands.cfg) size (s.finishedSamples ((List.range size).map sample)) (exec i s) := by
  obtain ⟨es, hes, rfl⟩ := h
  have hends := runCommand_checkedRule readBit writeSample hes hcode (by rw [List.length_map, List.length_range])
  have hwrite : ((List.range size).map sample).map writeSample = (List.range size).map sample := List.map_id _
  rwa [hwrite, ← hexec] at hends

/-- A demodulator's command, from samples to bits. -/
theorem exec_checked_receive {code : Cfg → List F64 → List Bit}
    (hexec : exec i s = runCommand readSample writeBit (checkedRule bad code) s) {xs : List F64}
    (h : s.HasSamples xs) {out : List Bit} (hcode : code s.operands.cfg xs = out) (hsize : out.length = size) :
    EndsChecked s (bad s.operands.cfg) size (s.finishedBits out) (exec i s) := by
  have hread : xs.map readSample = xs := List.map_id xs
  rw [← hread] at hcode
  rw [hexec]
  exact runCommand_checkedRule readSample writeBit h (fun _ => hcode) hsize

end

/-! ## The commands -/

section
variable (s : State)

/-! Each command is its rule (44_passband.md R214 to R223). -/

theorem exec_askMod : exec .askMod s = runCommand readBit writeSample (checkedRule Cfg.NoSamples fun cfg =>
    askModulate Config.sin64 cfg.spb.toNat cfg.fc.toNat cfg.a0 cfg.a1) s := rfl

theorem exec_askDem : exec .askDem s = runCommand readSample writeBit (checkedRule Cfg.NoSamples fun cfg =>
    askDemodulate Config.sin64 cfg.spb.toNat cfg.fc.toNat) s := rfl

theorem exec_fskMod : exec .fskMod s = runCommand readBit writeSample (checkedRule Cfg.NoTones fun cfg =>
    fskModulate Config.sin64 cfg.spb.toNat cfg.f0.toNat cfg.f1.toNat) s := rfl

theorem exec_fskDem : exec .fskDem s = runCommand readSample writeBit (checkedRule Cfg.NoTones fun cfg =>
    fskDemodulate Config.sin64 cfg.spb.toNat cfg.f0.toNat cfg.f1.toNat) s := rfl

theorem exec_qpskMod : exec .qpskMod s = runCommand readBit writeSample (checkedRule Cfg.NoSamples fun cfg =>
    qpskModulate Config.sin64 cfg.spb.toNat cfg.fc.toNat) s := rfl

theorem exec_qpskDem : exec .qpskDem s = runCommand readSample writeBit (checkedRule Cfg.NoSamples fun cfg =>
    qpskDemodulate Config.sin64 cfg.spb.toNat cfg.fc.toNat) s := rfl

theorem exec_qam16Mod : exec .qam16Mod s = runCommand readBit writeSample (checkedRule Cfg.NoSamples fun cfg =>
    qamModulate Config.sin64 Config.cos64 cfg.spb.toNat cfg.fc.toNat) s := rfl

theorem exec_qam16Dem : exec .qam16Dem s = runCommand readSample writeBit (checkedRule Cfg.NoSamples fun cfg =>
    qamDemodulate Config.sin64 Config.cos64 cfg.spb.toNat cfg.fc.toNat) s := rfl

end

/-- Settles O53: `exec_checked_transmit`, the samples by index. -/
theorem askAndFskModulate : Obligations.AskAndFskModulate := by
  refine ⟨decodeOfEncodeIsTheCommand .askMod rfl, decodeOfEncodeIsTheCommand .fskMod rfl, fun s bt h => ?_⟩
  have ask := exec_checked_transmit (exec_askMod s) h fun hgood =>
    askModulate_eq_map_range (Nat.not_lt.1 hgood) _ _ _ _ bt
  have fsk := exec_checked_transmit (exec_fskMod s) h fun hgood =>
    fskModulate_eq_map_range (Nat.not_lt.1 (not_or.1 hgood).1) _ _ _ bt
  exact ⟨ask.invalid, fsk.invalid, fun hn => ask.output (Nat.not_lt.2 hn),
    fun hn hne => fsk.output (not_or.2 ⟨Nat.not_lt.2 hn, hne⟩), fun hn => ask.overflow (Nat.not_lt.2 hn),
    fun hn hne => fsk.overflow (not_or.2 ⟨Nat.not_lt.2 hn, hne⟩)⟩

/-- Settles O54: `exec_checked_receive`, the decisions by index. -/
theorem askAndFskDemodulate : Obligations.AskAndFskDemodulate := by
  refine ⟨decodeOfEncodeIsTheCommand .askDem rfl, decodeOfEncodeIsTheCommand .fskDem rfl, fun s xs h => ?_⟩
  have ask := exec_checked_receive (exec_askDem s) h (askDemodulate_eq_map_range ..)
    (by rw [List.length_map, List.length_range])
  have fsk := exec_checked_receive (exec_fskDem s) h (fskDemodulate_eq_map_range ..)
    (by rw [List.length_map, List.length_range])
  exact ⟨ask.invalid, fsk.invalid, fun hn => ask.output (Nat.not_lt.2 hn),
    fun hn hne => fsk.output (not_or.2 ⟨Nat.not_lt.2 hn, hne⟩), fun hn => ask.overflow (Nat.not_lt.2 hn),
    fun hn hne => fsk.overflow (not_or.2 ⟨Nat.not_lt.2 hn, hne⟩)⟩

/-! `qpskModulate` and `qpskDemodulate` are the names of the model's rules, so the statements about the two commands
stand in a namespace of their own. -/

namespace Commands

/-- Settles O55: `exec_checked_transmit`, the samples by `qpskModulate_eq_map_range`. -/
theorem qpskModulate : Obligations.QpskModulate := by
  refine ⟨decodeOfEncodeIsTheCommand .qpskMod rfl, fun s bt h => ?_⟩
  have qpsk := exec_checked_transmit (exec_qpskMod s) h fun hgood =>
    qpskModulate_eq_map_range (Nat.not_lt.1 hgood) _ _ bt
  exact ⟨qpsk.invalid, fun hn => qpsk.output (Nat.not_lt.2 hn), fun hn => qpsk.overflow (Nat.not_lt.2 hn)⟩

/-- Settles O56: `exec_checked_receive`, the symbols by `qpskDemodulate_eq_flatMap_range`. -/
theorem qpskDemodulate : Obligations.QpskDemodulate := by
  refine ⟨decodeOfEncodeIsTheCommand .qpskDem rfl, fun s xs h => ?_⟩
  have qpsk := exec_checked_receive (exec_qpskDem s) h (qpskDemodulate_eq_flatMap_range ..)
    (length_flatMap_range 2 _ fun _ => rfl)
  exact ⟨qpsk.invalid, fun hn => qpsk.output (Nat.not_lt.2 hn), fun hn => qpsk.overflow (Nat.not_lt.2 hn)⟩

end Commands

/-- Settles O57: `exec_checked_transmit`, the samples by `qamModulate_eq_map_range`. -/
theorem qam16Modulate : Obligations.Qam16Modulate := by
  refine ⟨decodeOfEncodeIsTheCommand .qam16Mod rfl, fun s bt h => ?_⟩
  have qam := exec_checked_transmit (exec_qam16Mod s) h fun hgood =>
    qamModulate_eq_map_range (Nat.not_lt.1 hgood) _ _ _ bt
  exact ⟨qam.invalid, fun hn => qam.output (Nat.not_lt.2 hn), fun hn => qam.overflow (Nat.not_lt.2 hn)⟩

/-- Settles O58: `exec_checked_receive`, the symbols by `qamDemodulate_eq_flatMap_range`. -/
theorem qam16Demodulate : Obligations.Qam16Demodulate := by
  refine ⟨decodeOfEncodeIsTheCommand .qam16Dem rfl, fun s xs h => ?_⟩
  have qam := exec_checked_receive (exec_qam16Dem s) h (qamDemodulate_eq_flatMap_range ..)
    (length_flatMap_range 4 _ fun _ => rfl)
  exact ⟨qam.invalid, fun hn => qam.output (Nat.not_lt.2 hn), fun hn => qam.overflow (Nat.not_lt.2 hn)⟩

end Sys2Proof.Machine
end

section
/-! Exceptions: illegal words, what START latches, the checks before a command's rule, what a completion leaves, and the
situations in which a step faults (60_exceptions.md R251 to R262). -/

namespace Sys2Proof.Machine

/-! ## Illegal words -/

section
variable (w : CmdWord)

/-- RSVD as a number (30_encoding.md R71). -/
theorem toNat_cmdRsvd : (cmdRsvd w).toNat = w.toNat / 2 % 128 := by
  rw [cmdRsvd, BitVec.extractLsb'_toNat, Nat.shiftRight_eq_div_pow]

/-- VARIANT as a number (30_encoding.md R71). -/
theorem toNat_cmdVariant : (cmdVariant w).toNat = w.toNat / 256 % 16 := by
  rw [cmdVariant, BitVec.extractLsb'_toNat, Nat.shiftRight_eq_div_pow]

/-- FAMILY as a number: nothing stands above it (30_encoding.md R71). -/
theorem toNat_cmdFamily : (cmdFamily w).toNat = w.toNat / 4096 := by
  rw [cmdFamily, BitVec.extractLsb'_toNat, Nat.shiftRight_eq_div_pow]
  omega

/-- The grounds on which a word is illegal (30_encoding.md R82), by the word's number. -/
theorem isIllegalWord_iff_toNat : isIllegalWord w = true ↔
    w.toNat / 2 % 128 ≠ 0 ∨ 5 ≤ w.toNat / 4096 ∨ (w.toNat / 4096 = 0 ∧ w.toNat / 256 % 16 ≠ 0) := by
  simp only [isIllegalWord_iff, ← BitVec.toNat_inj, ne_eq, toNat_cmdRsvd, toNat_cmdFamily, toNat_cmdVariant,
    BitVec.toNat_ofNat, Nat.zero_mod]

end

/-- ILLEGAL is the error's completion, in every state (60_exceptions.md R261). -/
theorem exec_illegal (w : CmdWord) (s : State) : exec (.illegal w) s = .next (s.endedWith 12#4) := rfl

/-- Settles O4: the grounds by `isIllegalWord_iff_toNat`, the command by `exec_illegal`. -/
theorem illegalWordsEndWithIllegalCommand : Obligations.IllegalWordsEndWithIllegalCommand :=
  fun w s h => ⟨decode_of_isIllegalWord ((isIllegalWord_iff_toNat w).2 h), exec_illegal w s⟩

/-! ## START -/

/-- The copy of IN below a length is unwritten from there on (10_state.md R43). -/
theorem memRead_memBelow_of_le (m : Memory) {n i : Nat} (h : n ≤ i) : memRead (memBelow m n) i = none := by
  induction m with
  | nil => rfl
  | cons c m ih =>
    obtain ⟨j, v⟩ := c
    unfold memBelow at ih ⊢
    by_cases hj : j < n
    · simp [hj, memRead_cons, ih, show i ≠ j by omega]
    · simp [hj, ih]

/-- What the latched copy of IN reads as (10_state.md R43). -/
theorem memRead_snapshot_input (s : State) (i : Nat) :
    memRead s.snapshot.input i = if i < s.inLen.toNat then memRead s.inBuf i else none := by
  split
  case isTrue h => exact memRead_memBelow s.inBuf h
  case isFalse h => exact memRead_memBelow_of_le s.inBuf (Nat.le_of_not_lt h)

/-- A write of CTRL with START and without SOFT_RESET (10_state.md R24). -/
theorem writeReg_ctrl_of_start (s : State) {v : Word} (h0 : v.getLsbD 0 = true) (h1 : v.getLsbD 1 = false) :
    s.writeReg v .ctrl = s.start := by
  rw [State.writeReg, State.writeCtrl, h0, h1]
  rfl

/-- Settles O6: the step is the host's write of CTRL, which is START; what it latches is the snapshot. -/
theorem startLatchesTheCommand : Obligations.StartLatchesTheCommand := by
  intro s v rest he hs h0 h1
  refine ⟨s.snapshot, Config.execDelay s.starts, ?_, rfl, rfl, rfl, memRead_snapshot_input s⟩
  have hctrl : regAt 0x08 = .ctrl := rfl
  rw [step_of_idle hs he, hostOp_regWrite_of_idle (s := { s with script := rest }) he v (by decide) (by decide), hctrl,
    writeReg_ctrl_of_start _ h0 h1]
  rfl

/-! ## The checks before a command's rule -/

/-- A range with an unwritten element is not read (20_memory.md R56). -/
theorem memReadRange_eq_none {m : Memory} {i n j : Nat} (hj : j < n) (h : memRead m (i + j) = none) :
    memReadRange m i n = none := by
  cases hr : memReadRange m i n with
  | none => rfl
  | some vs =>
    obtain ⟨rfl, hread⟩ := memReadRange_spec hr
    have hsome := hread j vs[j] (List.getElem?_eq_getElem hj)
    rw [h] at hsome
    cases hsome

/-- Input within IN_CAP with an unwritten element is the fault UnwrittenRead (60_exceptions.md R253 step 4). -/
theorem runCommand_of_unwritten {α β : Type} (read : Word → α) (write : β → Word)
    (rule : Cfg → List α → Except ErrCode (List β)) {s : State} (hle : s.operands.inLen.toNat ≤ s.inCap) {j : Nat}
    (hj : j < s.operands.inLen.toNat) (h : memRead s.operands.input j = none) :
    runCommand read write rule s = .fault .unwrittenRead := by
  have hr : memReadRange s.operands.input 0 s.operands.inLen.toNat = none :=
    memReadRange_eq_none hj ((Nat.zero_add j).symm ▸ h)
  simp only [runCommand, if_neg (Nat.not_lt.2 hle), hr]

/-- Every command but the three that end with an error at once takes the path of `runCommand` with a rule of its own
(60_exceptions.md R253). -/
theorem exec_eq_runCommand {i : Instr} (hlc : ∀ v d, i ≠ .lcUnknown v d) (hpb : ∀ v d, i ≠ .pbUnknown v d)
    (hill : ∀ w, i ≠ .illegal w) :
    ∃ (α β : Type) (read : Word → α) (write : β → Word) (rule : Cfg → List α → Except ErrCode (List β)),
      ∀ s, exec i s = runCommand read write rule s := by
  cases i with
  | lcUnknown v d => exact absurd rfl (hlc v d)
  | pbUnknown v d => exact absurd rfl (hpb v d)
  | illegal w => exact absurd rfl (hill w)
  | _ =>
    simp only [exec]
    exact ⟨_, _, _, _, _, fun _ => rfl⟩

/-- Settles O8: both checks stand on the path of `runCommand`, before the rule. -/
theorem inputIsCheckedBeforeTheRule : Obligations.InputIsCheckedBeforeTheRule := by
  intro i s hlc hpb hill
  obtain ⟨α, β, read, write, rule, hexec⟩ := exec_eq_runCommand hlc hpb hill
  rw [hexec]
  exact ⟨runCommand_over_capacity read write rule,
    fun hle ⟨_, hj, h⟩ => runCommand_of_unwritten read write rule hle hj h⟩

/-! ## Completion -/

/-- EXEC that answers next has completed, with an error or with a result that fits OUT (60_exceptions.md R255). -/
theorem exec_next {i : Instr} {s t : State} (h : exec i s = .next t) :
    (∃ c, t = s.completeErr c) ∨ ∃ out : List Word, out.length ≤ s.outCap ∧ t = s.completeOk out := by
  rcases exec_cases i s with ⟨hx, -⟩ | ⟨c, hx⟩ | ⟨out, hout, hx⟩ <;> rw [hx] at h <;> cases h
  · exact .inl ⟨c, rfl⟩
  · exact .inr ⟨out, hout, rfl⟩

/-- After a result that fits OUT exactly the elements below OUT_LEN are written (20_memory.md R57). -/
theorem isSome_memRead_completeOk_outBuf {s : State} {out : List Word} (hout : out.length ≤ s.outCap)
    (hcap : s.outCap < 2 ^ 32) (j : Nat) :
    (memRead (s.completeOk out).outBuf j).isSome = true ↔ j < (s.completeOk out).outLen.toNat := by
  simp [toNat_ofNat_of_le_cap hout hcap]

/-- The host reads the elements of a result out of OUT (20_memory.md R55, R57). -/
theorem hostOp_outRead_finishedWith {s : State} {out : List Word} (hout : out.length ≤ s.outCap) {j : Nat} {v : Word}
    (h : out[j]? = some v) :
    hostOp (.outRead j) (s.finishedWith out)
      = .next { s.finishedWith out with reads := v :: (s.finishedWith out).reads } := by
  have hj : j < s.outCap := (List.getElem?_eq_some_iff.1 h).1.trans_le hout
  have hread : memRead (s.finishedWith out).outBuf j = some v := (memRead_memOfList out j).trans h
  exact hostOp_outRead_of_ok (hostBufRead_of_written rfl hj hread)

/-- Settles O7: the two completions of `exec_next`, each field by its definition; OUT by `memRead_memOfList`. -/
theorem completionLeavesAResultOrACleanError : Obligations.CompletionLeavesAResultOrACleanError := by
  refine ⟨fun i s t hcap hx => ?completion, fun s out hout hcap => ?result⟩
  case completion =>
    rcases exec_next hx with ⟨c, rfl⟩ | ⟨out, hout, rfl⟩
    · obtain ⟨hlow, hhigh⟩ := c.code_range
      exact ⟨rfl, rfl, fun _ => ⟨rfl, hlow, hhigh, memRead_nil⟩, nofun, rfl, rfl, rfl, rfl, rfl, fun _ => rfl, rfl, rfl,
        rfl⟩
    · have hlen : (s.completeOk out).outLen.toNat ≤ s.outCap := (toNat_ofNat_of_le_cap hout hcap).trans_le hout
      exact ⟨rfl, rfl, nofun, fun _ => ⟨rfl, hlen, isSome_memRead_completeOk_outBuf hout hcap⟩, rfl, rfl, rfl, rfl, rfl,
        fun _ => rfl, rfl, rfl, rfl⟩
  case result =>
    exact ⟨toNat_ofNat_of_le_cap hout hcap, memRead_memOfList out, fun _ _ => hostOp_outRead_finishedWith hout⟩

/-! ## Model faults -/

/-- A register access for which the block has no meaning (10_state.md R36). -/
def HostOp.BadRegister (op : HostOp) : Prop :=
  ∃ offset width, ((∃ v, op = .regWrite offset width v) ∨ op = .regRead offset width)
    ∧ (width ≠ 64 ∨ offset % 8 ≠ 0 ∨ 0xFF < offset)

/-- An access past a buffer, or a write of OUT (20_memory.md R52 to R55). -/
def HostOp.BadBuffer (op : HostOp) (s : State) : Prop :=
  (∃ i v, op = .outWrite i v) ∨ (∃ i v, op = .inWrite i v ∧ s.inCap ≤ i) ∨ (∃ i, op = .inRead i ∧ s.inCap ≤ i)
    ∨ ∃ i, (op = .outRead i ∨ op = .copy i) ∧ s.outCap ≤ i

/-- A read of an element that nothing has written (20_memory.md R53, R55). -/
def HostOp.ReadsUnwritten (op : HostOp) (s : State) : Prop :=
  (∃ i, op = .inRead i ∧ memRead s.inBuf i = none)
    ∨ ∃ i, (op = .outRead i ∨ op = .copy i) ∧ memRead s.outBuf i = none

/-- The operations a host may not do while BUSY: register writes and buffer accesses (70_reset_and_hazards.md R291). -/
def HostOp.NeedsIdle (op : HostOp) : Prop :=
  (∃ o w v, op = .regWrite o w v) ∨ (∃ i v, op = .inWrite i v) ∨ (∃ i v, op = .outWrite i v)
    ∨ ∃ i, op = .inRead i ∨ op = .outRead i ∨ op = .copy i

/-- The host's rows of the table of model faults (60_exceptions.md R262; log entry 9). -/
inductive HostFault (s : State) (op : HostOp) : Fault → Prop where
  | badRegister (h : op.BadRegister) : HostFault s op .badRegisterAccess
  | badBuffer (idle : s.isBusy = false) (h : op.BadBuffer s) : HostFault s op .badBufferAccess
  | unwritten (idle : s.isBusy = false) (h : op.ReadsUnwritten s) : HostFault s op .unwrittenRead
  | whileBusy (busy : s.isBusy = true) (h : op.NeedsIdle) : HostFault s op .hostAccessWhileBusy

section
variable {s : State} {op : HostOp} {f : Fault}

/-- The faults of an operation that reads a buffer are those of the shared read. -/
theorem hostFault_of_bufRead {cap : Nat} {m : Memory} {i : Nat} (h : hostBufRead cap m i s = .error f)
    (hidle : op.NeedsIdle) (hbad : cap ≤ i → op.BadBuffer s) (hunwritten : memRead m i = none → op.ReadsUnwritten s) :
    HostFault s op f := by
  cases hb : s.isBusy with
  | true =>
    rw [hostBufRead_of_busy hb] at h
    cases h
    exact .whileBusy hb hidle
  | false =>
    have he := State.engine_of_not_busy hb
    rcases Nat.lt_or_ge i cap with hi | hcap
    · cases hm : memRead m i with
      | none =>
        rw [hostBufRead_of_unwritten he hi hm] at h
        cases h
        exact .unwritten hb (hunwritten hm)
      | some v =>
        rw [hostBufRead_of_written he hi hm] at h
        cases h
    · rw [hostBufRead_of_cap_le he hcap] at h
      cases h
      exact .badBuffer hb (hbad hcap)

/-- A host operation faults only in the situations of the table (60_exceptions.md R262). -/
theorem hostOp_fault (h : hostOp op s = .fault f) : HostFault s op f := by
  cases op with
  | regWrite offset width v =>
    simp only [hostOp, hostRegWrite] at h
    split at h
    next hb => cases h; exact .whileBusy hb (.inl ⟨_, _, _, rfl⟩)
    next =>
      split at h
      next hbad => cases h; exact .badRegister ⟨_, _, .inl ⟨_, rfl⟩, (badRegAccess_iff _ _).1 hbad⟩
      next => cases h
  | regRead offset width =>
    simp only [hostOp, hostRegRead] at h
    split at h
    next hbad => cases h; exact .badRegister ⟨_, _, .inr rfl, (badRegAccess_iff _ _).1 hbad⟩
    next => cases h
  | inWrite i v =>
    simp only [hostOp, hostInWrite] at h
    split at h
    next hb => cases h; exact .whileBusy hb (.inr (.inl ⟨_, _, rfl⟩))
    next hb =>
      split at h
      next hcap => cases h; exact .badBuffer (Bool.eq_false_of_not_eq_true hb) (.inr (.inl ⟨_, _, rfl, hcap⟩))
      next => cases h
  | outWrite i v =>
    simp only [hostOp, hostOutWrite] at h
    split at h
    next hb => cases h; exact .whileBusy hb (.inr (.inr (.inl ⟨_, _, rfl⟩)))
    next hb => cases h; exact .badBuffer (Bool.eq_false_of_not_eq_true hb) (.inl ⟨_, _, rfl⟩)
  | inRead i =>
    simp only [hostOp, hostInRead] at h
    split at h
    next hread =>
      cases h
      exact hostFault_of_bufRead hread (.inr (.inr (.inr ⟨i, .inl rfl⟩)))
        (fun hcap => .inr (.inr (.inl ⟨i, rfl, hcap⟩))) fun hm => .inl ⟨i, rfl, hm⟩
    next => cases h
  | outRead i =>
    simp only [hostOp, hostOutRead] at h
    split at h
    next hread =>
      cases h
      exact hostFault_of_bufRead hread (.inr (.inr (.inr ⟨i, .inr (.inl rfl)⟩)))
        (fun hcap => .inr (.inr (.inr ⟨i, .inl rfl, hcap⟩))) fun hm => .inr ⟨i, .inl rfl, hm⟩
    next => cases h
  | copy i =>
    simp only [hostOp, hostCopy] at h
    split at h
    next hread =>
      cases h
      exact hostFault_of_bufRead hread (.inr (.inr (.inr ⟨i, .inr (.inr rfl)⟩)))
        (fun hcap => .inr (.inr (.inr ⟨i, .inr rfl, hcap⟩))) fun hm => .inr ⟨i, .inr rfl, hm⟩
    next => cases h
  | wait =>
    simp only [hostOp, hostWait] at h
    split at h <;> cases h
  | chain => cases h

/-- The table does not read what taking an operation off the script changes. -/
theorem HostFault.of_takeOp {rest : List HostOp} (h : HostFault (s.takeOp rest) op f) : HostFault s op f := by
  have hbusy := s.takeOp_isBusy rest
  cases h with
  | badRegister h => exact .badRegister h
  | badBuffer idle h => exact .badBuffer (hbusy.symm.trans idle) h
  | unwritten idle h => exact .unwritten (hbusy.symm.trans idle) h
  | whileBusy busy h => exact .whileBusy (hbusy.symm.trans busy) h

/-- A step that faults is EXEC of a command with an unwritten input element, or a host operation of the table
(60_exceptions.md R262). -/
theorem step_fault (h : step s = .fault f) :
    (f = .unwrittenRead ∧ ∃ l wait, s.engine = .busy l wait ∧ ∃ j < l.inLen.toNat, memRead l.input j = none)
      ∨ ∃ op rest, s.script = op :: rest ∧ HostFault s op f := by
  unfold step at h
  split at h
  next w hw =>
    obtain ⟨l, wait, he, rfl⟩ := engineTurn_some hw
    rcases exec_cases (decode l.cmd) s with ⟨hx, -, hunwritten⟩ | ⟨c, hx⟩ | ⟨out, -, hx⟩ <;> rw [hx] at h <;> cases h
    rw [State.operands_busy he] at hunwritten
    exact .inl ⟨rfl, l, wait, he, hunwritten⟩
  next =>
    unfold hostTurn at h
    split at h
    next => cases h
    next op rest hs => exact .inr ⟨op, rest, hs, (hostOp_fault h).of_takeOp⟩

end

/-- A BUSY engine holds a latched copy (10_state.md R42, R43). -/
theorem State.engine_of_busy {s : State} (h : s.isBusy = true) : ∃ l wait, s.engine = .busy l wait := by
  cases he : s.engine with
  | idle =>
    rw [State.isBusy_idle he] at h
    cases h
  | busy l wait => exact ⟨l, wait, rfl⟩

/-- Settles O9: `step_fault`, row by row of the table; refusals by `step_not_refused`. -/
theorem stepFaultsOnlyAsTheTableLists : Obligations.StepFaultsOnlyAsTheTableLists := by
  refine fun s => ⟨step_not_refused s, fun f hf => ?_⟩
  rcases step_fault hf with hexec | ⟨op, rest, hs, hhost⟩
  · exact .inl hexec
  · refine .inr ⟨op, rest, hs, ?_⟩
    cases hhost with
    | badRegister h => exact .inl ⟨rfl, h⟩
    | badBuffer idle h => exact .inr (.inl ⟨rfl, State.engine_of_not_busy idle, h⟩)
    | unwritten idle h => exact .inr (.inr (.inl ⟨rfl, State.engine_of_not_busy idle, h⟩))
    | whileBusy busy h => exact .inr (.inr (.inr ⟨rfl, State.engine_of_busy busy, h⟩))

end Sys2Proof.Machine
end

section
/-! Reset and hazards: what the host may do while the engine is BUSY, and SOFT_RESET (70_reset_and_hazards.md R283,
R291). -/

namespace Sys2Proof.Machine

/-! ## The host while the engine is BUSY -/

/-- While BUSY a host's register write faults, whatever the offset and the width (70_reset_and_hazards.md R291;
log entry 9). -/
theorem hostOp_regWrite_of_busy {s : State} (hb : s.isBusy = true) (offset width : Nat) (v : Word) :
    hostOp (.regWrite offset width v) s = .fault .hostAccessWhileBusy := by
  rw [hostOp, hostRegWrite, if_pos hb]

/-- Of the legal combinations of the status bits only one has BUSY: nothing else is set in it (10_state.md R25). -/
theorem State.StatusLegal.of_busy {s : State} (h : s.StatusLegal) (hb : s.isBusy = true) :
    s.done = false ∧ s.err = false ∧ s.errCode = 0#4 := by
  have hcombination := h.combination
  rw [hb] at hcombination
  have hbits : s.done = false ∧ s.err = false := by simpa using hcombination
  exact ⟨hbits.1, hbits.2, h.noError hbits.2⟩

/-- With a legal status STATUS reads BUSY alone while the engine is BUSY. -/
theorem State.StatusLegal.readReg_status_of_busy {s : State} (h : s.StatusLegal) (hb : s.isBusy = true) :
    s.readReg .status = 1#64 := by
  obtain ⟨hdone, herr, hcode⟩ := h.of_busy hb
  rw [State.readReg, State.statusWord, hb, hdone, herr, hcode]
  rfl

/-- Settles O16: the accesses fault by `hostRegWrite` and `hostBufRead`; the registers read the latched copy because the
invariant keeps it equal to them. -/
theorem hostAccessWhileBusy : Obligations.HostAccessWhileBusy := by
  intro s l wait h he
  have hb : s.isBusy = true := State.isBusy_busy he
  have hlatched : l = s.snapshot := h.latchedCurrent l wait he
  subst hlatched
  refine ⟨hostOp_regWrite_of_busy hb, fun i v => ?buffers, fun offset h8 hle => hostOp_regRead_of_aligned s h8 hle,
    h.status.readReg_status_of_busy hb, ?registers⟩
  case buffers =>
    obtain ⟨hinWrite, houtWrite⟩ := hostOp_bufWrite_of_busy hb i v
    exact ⟨hinWrite, houtWrite, hostOp_bufRead_of_busy hb i⟩
  case registers => and_intros <;> rfl

/-! ## SOFT_RESET -/

/-- SOFT_RESET wins over START, so bit 0 of the value does not matter (10_state.md R24). -/
theorem writeReg_ctrl_of_softReset (s : State) {v : Word} (h1 : v.getLsbD 1 = true) :
    s.writeReg v .ctrl = s.softReset := by
  rw [State.writeReg, State.writeCtrl, if_pos h1]

/-- After SOFT_RESET every register but CAPS reads its power-on value (70_reset_and_hazards.md R283). -/
theorem readReg_softReset_of_ne_caps (s : State) {r : Reg} (hr : r ≠ .caps) :
    s.softReset.readReg r = State.reset.readReg r := by
  cases r with
  | caps => exact absurd rfl hr
  | _ => rfl

/-- CAPS is hardwired: SOFT_RESET keeps it (10_state.md R28). -/
theorem readReg_caps_softReset (s : State) : s.softReset.readReg .caps = s.readReg .caps := rfl

/-- Settles O17: the IDLE block's write of CTRL is `State.softReset`; a BUSY block's write is any write's fault. -/
theorem softResetIsPowerOnReset : Obligations.SoftResetIsPowerOnReset := by
  refine fun s v h1 => ⟨fun hs => ⟨s.softReset, ?write, fun r hr => readReg_softReset_of_ne_caps s hr,
    readReg_caps_softReset s, memRead_nil, memRead_nil, s.softReset_engine, s.softReset_script, s.softReset_reads⟩,
    fun l wait he => hostOp_regWrite_of_busy (State.isBusy_busy he) 0x08 64 v⟩
  have hctrl : regAt 0x08 = .ctrl := rfl
  rw [hostOp_regWrite_of_idle hs v (by decide) (by decide), hctrl, writeReg_ctrl_of_softReset s h1]

end Sys2Proof.Machine
end
